-- ==== Sys2Proof/Word.lean ====
section
/-! DEFINITION. The word types of the unit: bytes, the 16-bit fields, the 32-bit registers, and the 9-byte packet
(00_scope.md R9, 30_encoding.md R90). -/

namespace Sys2Proof

/-- An unsigned 8-bit byte (R9). -/
abbrev Byte := BitVec 8

/-- An unsigned 16-bit quantity: `SPAN`, `CONC` (R27, R35). -/
abbrev Half := BitVec 16

/-- A 32-bit register: `BAUD`, `TRIES`, `TIMEOUT_S`, `REMAIN` (R22, R28, R29, R36). -/
abbrev Word := BitVec 32

/-- A present packet: exactly 9 bytes, `b0` at offset 0, first on the wire (R61, R63, R90, R150). -/
structure Packet where
  b0 : Byte
  b1 : Byte
  b2 : Byte
  b3 : Byte
  b4 : Byte
  b5 : Byte
  b6 : Byte
  b7 : Byte
  b8 : Byte
deriving DecidableEq, Repr

end Sys2Proof
end

