-- ==== Sys2Proof/Syntax.lean ====
section
/-! DEFINITION. The instructions: one constructor per row of spec/opcode_table.json (30_encoding.md R97, R98). -/

namespace Sys2Proof

/-- The four wire packets and the three host commands. -/
inductive Instr where
  /-- `READ_GAS_REQ`, format REQ, every bit fixed (R91, R155). -/
  | readGasReq
  /-- `CAL_ZERO_REQ`, format REQ, every bit fixed (R91, R156). -/
  | calZeroReq
  /-- `CAL_SPAN_REQ`, format REQ_SPAN: the span point and the checksum byte it determines (R92, R157). -/
  | calSpanReq (span : Half) (checksum : Byte)
  /-- `READ_GAS_RESP`, format RESP: concentration, the reserved bytes of offsets 4 to 7 (offset 4 most significant) and the
  trailing checksum byte (R93, R160). -/
  | readGasResp (concentration : Half) (reserved : BitVec 32) (checksum : Byte)
  /-- `READ_GAS`, host code 0 (R240). -/
  | readGas
  /-- `CAL_ZERO`, host code 1 (R241). -/
  | calZero
  /-- `CAL_SPAN`, host code 2; its operand is the `SPAN` register (R242). -/
  | calSpan
deriving DecidableEq, Repr

end Sys2Proof
end

