-- ==== Sys2Proof/WellFormed.lean ====
section
/-! DEFINITION. Which instructions are well formed: the one relation between fields that the encoding has and the field
types do not (30_encoding.md R92). -/

namespace Sys2Proof

/-- R92's closed form: the checksum byte of a CalibrateSpan request is `(0x100 - (0x89 + SPAN[15:8] + SPAN[7:0])) mod 256`. -/
def spanRequestChecksum (span : Half) : Byte :=
  0x00#8 - (0x89#8 + span.extractLsb' 8 8 + span.extractLsb' 0 8)

/-- A CAL_SPAN_REQ is well formed when its checksum byte is the one its span determines ("not a free field"). The fields of
READ_GAS_RESP are free: a wrong checksum is a check of PARSE_GAS, not a bit pattern (R97, R99). -/
def Instr.wellFormed : Instr → Bool
  | .readGasReq => true
  | .calZeroReq => true
  | .calSpanReq span checksum => checksum == spanRequestChecksum span
  | .readGasResp _ _ _ => true
  | .readGas => true
  | .calZero => true
  | .calSpan => true

end Sys2Proof
end

