-- ==== Sys2Proof/Decode.lean ====
section
/-! DEFINITION. The decoder, total on any bytes and rejecting by name, and after it the encoder (30_encoding.md R90 to R98).
A command is one byte, a packet nine; the decoder follows the match and mask of each row of spec/opcode_table.json. -/

namespace Sys2Proof

/-- R8's constants. -/
def pktLen : Nat := 9
def startMarker : Byte := 0xFF#8
def sensorId : Byte := 0x01#8
def cmdRead : Byte := 0x86#8
def cmdZero : Byte := 0x87#8
def cmdSpan : Byte := 0x88#8

/-- R62: the more significant byte of a 16-bit field. -/
def hiByte (v : Half) : Byte := v.extractLsb' 8 8

/-- R62: the less significant byte of a 16-bit field. -/
def loByte (v : Half) : Byte := v.extractLsb' 0 8

/-- `{hi, lo}` (R9, R95). -/
def joinBytes (hi lo : Byte) : Half := hi ++ lo

/-- The bytes of a packet, offset 0 first (R61, R63). -/
def Packet.toList (p : Packet) : List Byte := [p.b0, p.b1, p.b2, p.b3, p.b4, p.b5, p.b6, p.b7, p.b8]

/-- The seven payload bytes, offsets 1 to 7 (R151). -/
def Packet.payload (p : Packet) : List Byte := [p.b1, p.b2, p.b3, p.b4, p.b5, p.b6, p.b7]

/-- A packet is exactly nine bytes (R90). -/
def Packet.ofList : List Byte → Option Packet
  | [b0, b1, b2, b3, b4, b5, b6, b7, b8] => some ⟨b0, b1, b2, b3, b4, b5, b6, b7, b8⟩
  | _ => none

/-- The byte at an offset (R9). -/
def Packet.get? (p : Packet) (off : Nat) : Option Byte := p.toList[off]?

/-- The packet with the byte at one offset replaced; an offset past 8 names no byte. -/
def Packet.set (p : Packet) (off : Nat) (v : Byte) : Packet :=
  match off with
  | 0 => { p with b0 := v }
  | 1 => { p with b1 := v }
  | 2 => { p with b2 := v }
  | 3 => { p with b3 := v }
  | 4 => { p with b4 := v }
  | 5 => { p with b5 := v }
  | 6 => { p with b6 := v }
  | 7 => { p with b7 := v }
  | 8 => { p with b8 := v }
  | _ => p

/-- Why bytes are no instruction. -/
inductive DecodeError where
  /-- Neither one byte nor nine (R90, R98). -/
  | badLength (n : Nat)
  /-- A command code outside 0, 1, 2 (R101). -/
  | unrecognisedCommand (code : Byte)
  /-- Offset 0 is not the start marker (R91 to R93). -/
  | badStart (b : Byte)
  /-- Offset 1 is neither the sensor-id of a request nor the command byte of a response. -/
  | badSensorIdOrCommand (b : Byte)
  /-- Offset 2 of a request is no command byte of R97. -/
  | badRequestCommand (b : Byte)
  /-- A reserved byte of a request is not 0 (R91, R92, R100). -/
  | badReserved
  /-- The fixed checksum byte of a REQ packet differs (R91). -/
  | badFixedChecksum (b : Byte)
deriving DecidableEq, Repr

/-- The three rows of format CMD (R98). -/
def decodeCommand (code : Byte) : Except DecodeError Instr :=
  if code = 0x00#8 then .ok .readGas
  else if code = 0x01#8 then .ok .calZero
  else if code = 0x02#8 then .ok .calSpan
  else .error (.unrecognisedCommand code)

/-- A request packet whose offsets 0 and 1 have been checked (R91, R92). -/
def decodeRequest (p : Packet) : Except DecodeError Instr :=
  if p.b2 = cmdRead then
    if p.b3 = 0 ∧ p.b4 = 0 ∧ p.b5 = 0 ∧ p.b6 = 0 ∧ p.b7 = 0 then
      if p.b8 = 0x79#8 then .ok .readGasReq else .error (.badFixedChecksum p.b8)
    else .error .badReserved
  else if p.b2 = cmdZero then
    if p.b3 = 0 ∧ p.b4 = 0 ∧ p.b5 = 0 ∧ p.b6 = 0 ∧ p.b7 = 0 then
      if p.b8 = 0x78#8 then .ok .calZeroReq else .error (.badFixedChecksum p.b8)
    else .error .badReserved
  else if p.b2 = cmdSpan then
    if p.b5 = 0 ∧ p.b6 = 0 ∧ p.b7 = 0 then .ok (.calSpanReq (joinBytes p.b3 p.b4) p.b8)
    else .error .badReserved
  else .error (.badRequestCommand p.b2)

/-- The four packet rows (R97). A response has its command byte where a request has its sensor-id (R93). -/
def decodePacket (p : Packet) : Except DecodeError Instr :=
  if p.b0 = startMarker then
    if p.b1 = sensorId then decodeRequest p
    else if p.b1 = cmdRead then
      .ok (.readGasResp (joinBytes p.b2 p.b3) (p.b4 ++ p.b5 ++ p.b6 ++ p.b7) p.b8)
    else .error (.badSensorIdOrCommand p.b1)
  else .error (.badStart p.b0)

/-- One byte is a host command, nine bytes are a packet, any other length is no instruction. -/
def decode (bytes : List Byte) : Except DecodeError Instr :=
  match bytes with
  | [code] => decodeCommand code
  | _ =>
    match Packet.ofList bytes with
    | some p => decodePacket p
    | none => .error (.badLength bytes.length)

/-- The READ_GAS_RESP packet with the given fields (R93). -/
def responsePacket (conc : Half) (reserved : BitVec 32) (checksum : Byte) : Packet :=
  ⟨startMarker, cmdRead, hiByte conc, loByte conc, reserved.extractLsb' 24 8, reserved.extractLsb' 16 8,
    reserved.extractLsb' 8 8, reserved.extractLsb' 0 8, checksum⟩

/-- The bytes of an instruction, offset 0 first (R91 to R93, R98). -/
def encode : Instr → List Byte
  | .readGasReq => [startMarker, sensorId, cmdRead, 0, 0, 0, 0, 0, 0x79#8]
  | .calZeroReq => [startMarker, sensorId, cmdZero, 0, 0, 0, 0, 0, 0x78#8]
  | .calSpanReq span checksum => [startMarker, sensorId, cmdSpan, hiByte span, loByte span, 0, 0, 0, checksum]
  | .readGasResp conc reserved checksum => (responsePacket conc reserved checksum).toList
  | .readGas => [0x00#8]
  | .calZero => [0x01#8]
  | .calSpan => [0x02#8]

/-- The bytes of a table word: the table numbers a packet as ONE 72-bit number whose most significant byte is offset 0 (R9;
log 9). -/
def tableBytes (nbytes w : Nat) : List Byte :=
  match nbytes with
  | 0 => []
  | n + 1 => BitVec.ofNat 8 (w / 256 ^ n) :: tableBytes n w

/-- The instruction the decoder reads from a word numbered as spec/opcode_table.json numbers it: 8 bits for a command, 72
for a packet. -/
def decodeTableWord (nbits w : Nat) : Option Instr :=
  if nbits = 8 then (decode (tableBytes 1 w)).toOption
  else if nbits = 72 then (decode (tableBytes 9 w)).toOption
  else none

end Sys2Proof
end

