-- ==== Sys2Proof/Config.lean ====
section
/-! DEFINITION. What an implementation or a platform fixes and the spec leaves open (00_scope.md R8, R11; 92_eei_decisions.md
D12, D31): the shape of the terminal attributes, the flag layout and the speed codes as constants without a body, and the
environment's answers as free values. No proof can see any of these values. -/

namespace Sys2Proof.Config

/-- How many bits a flags word of the platform has beyond the five that the members of R130 need at least (log 12). -/
opaque spareFlagBits : Nat

/-- `W` of R130, the width of a flags word: open, "large enough for the members". Five bits are the least that hold four
different character-size patterns, two parity flags and the two-stop-bits flag side by side (DEDUCED; log 12). -/
abbrev flagWidth : Nat := spareFlagBits + 5

/-- A terminal flags word of the platform (R39). -/
abbrev FlagWord := BitVec flagWidth

/-- The type of the opaque OS speed codes (R120): any countable set of codes (log 13). -/
abbrev SpeedCode := Nat

/-- The two flag words a layout may place a member in (R39; log 25). -/
inductive FlagWordName where
  | cflag
  | lflag
deriving DecidableEq, Repr, Inhabited

/-- `FlagLayout`, the open parameter of R130, for flags words of width `W`. Its constraints are `FlagLayout.Ok`. -/
structure FlagLayout (W : Nat) where
  /-- The character-size sub-field. -/
  csizeMask : BitVec W
  cs5 : BitVec W
  cs6 : BitVec W
  cs7 : BitVec W
  cs8 : BitVec W
  parEnable : BitVec W
  parOdd : BitVec W
  stop2 : BitVec W
  ignModem : BitVec W
  rxEnable : BitVec W
  canon : BitVec W
  echo : BitVec W
  signals : BitVec W
  /-- `word(IGN_MODEM)` and so on: the flags word each of the five raw-mode members lives in. -/
  ignModemWord : FlagWordName
  rxEnableWord : FlagWordName
  canonWord : FlagWordName
  echoWord : FlagWordName
  signalsWord : FlagWordName
deriving DecidableEq, Repr, Inhabited

/-- The terminal-attribute structure, the eight fields of R39, with flags words of width `W`. `iflag`, `oflag`, `line` and
`cc` are opaque values the unit copies through unchanged (log 14). -/
structure Attr (W : Nat) where
  iflag : Nat
  oflag : Nat
  cflag : BitVec W
  lflag : BitVec W
  line : Nat
  cc : Nat
  ispeed : SpeedCode
  ospeed : SpeedCode
deriving DecidableEq, Repr, Inhabited

/-- The attributes of the platform's device: the width is the one the platform's layout fixes (R39). -/
abbrev DeviceAttr := Attr flagWidth

/-- Answers to `EnvOpen` (R11). -/
inductive OpenAnswer where
  | ok (fd : Nat)
  | fail
deriving DecidableEq, Repr, Inhabited

/-- Answers to `EnvGetAttr` (R11). -/
inductive GetAttrAnswer where
  | ok (attr : DeviceAttr)
  | fail
deriving DecidableEq, Repr, Inhabited

/-- Answers to `EnvSetAttr` and to `EnvClose` (R11). -/
inductive Ack where
  | ok
  | fail
deriving DecidableEq, Repr, Inhabited

/-- Answers to `EnvPoll` (R11). -/
inductive PollAnswer where
  | ready
  | timedOut
  | fatal
deriving DecidableEq, Repr, Inhabited

/-- Answers to `EnvXfer(Write, …)`: `Moved(k)`, `Again`, `Fatal` (R11, R201). -/
inductive WriteAnswer where
  | moved (k : Nat)
  | again
  | fatal
deriving DecidableEq, Repr, Inhabited

/-- Answers to `EnvXfer(Read, …)`: `Moved(k)` together with the `k` bytes read, `Again`, `Fatal` (R11, R201). -/
inductive ReadAnswer where
  | moved (bytes : List Byte)
  | again
  | fatal
deriving DecidableEq, Repr, Inhabited

/-- The platform's flag layout, before its constraints are imposed (`layout` of Machine/Flags.lean imposes them; log 11). -/
opaque flagLayout : FlagLayout flagWidth

/-- The platform's speed codes, before injectivity is imposed (`speedCode` of Machine/Baud.lean imposes it; log 13). -/
opaque rawSpeedCode : Word → SpeedCode

/-- The environment's free answers, one function per request of R11, applied to a counter in State (log 4). -/
opaque openAnswer : Nat → OpenAnswer
opaque getAttrAnswer : Nat → GetAttrAnswer
opaque setAttrAnswer : Nat → Ack
opaque pollAnswer : Nat → PollAnswer
opaque writeAnswer : Nat → WriteAnswer
opaque readAnswer : Nat → ReadAnswer
opaque closeAnswer : Nat → Ack

end Sys2Proof.Config
end

