-- ==== Sys2Proof/Machine/State.lean ====
section
/-! DEFINITION. The machine's state as plain data, the reasons a step can stop, and the state after reset (10_state.md). -/

namespace Sys2Proof.Machine

open Sys2Proof.Config

/-- A packet buffer: the bytes written so far as (offset, byte) pairs, offsets rising. An unlisted offset has no value
(R34, R44; log 3). -/
abbrev Memory := List Host.Cell

/-- The session state register `STATE` (R30). -/
inductive SessionState where
  | idle
  | portOpened
  | portConfigured
  | requestSent
  | responseReceived
  | done
  | failed
deriving DecidableEq, Repr

/-- The values of `REASON` (R31, R281). -/
inductive Reason where
  | none
  | openError
  | configError
  | unsupportedCommand
  | writeError
  | readError
  | protocolError
  | closeError
deriving DecidableEq, Repr

/-- The values of `CFGERR` (R31, R282). -/
inductive CfgErr where
  | none
  | unsupportedBaudRate
  | getAttrFailed
  | unsupportedDirection
  | unsupportedDataBits
  | unsupportedParity
  | unsupportedStopBits
  | setAttrFailed
deriving DecidableEq, Repr

/-- The values of `PROTOERR` (R31, R283). -/
inductive ProtoErr where
  | none
  | badStart
  | badCommand
  | badChecksum
deriving DecidableEq, Repr

/-- The values of `IOERR` (R31, R284). -/
inductive IoErr where
  | none
  | deadlineExceeded
  | waitFailed
  | transferFailed
  | unsupportedOperation
deriving DecidableEq, Repr

/-- The direction of a transfer (R202). A session uses only `read` and `write`. -/
inductive Dir where
  | read
  | write
  | other
deriving DecidableEq, Repr

/-- Where inside the current `STATE` the session stands: the "own progress state" R30 gives a transfer and CONFIGURE (log 7). -/
inductive Progress where
  /-- The state has been entered and what it runs has not begun. -/
  | ready
  /-- In `PortConfigured`: the request is built and the budget loaded, and the attempt's XFER_WRITE has not begun. -/
  | looping
  /-- A transfer is in progress; `MOVED` bytes of it have moved. -/
  | moving
deriving DecidableEq, Repr

/-- The ten configuration registers (R20 a). -/
structure ConfigRegs where
  /-- `DEV` (R21): an opaque identifier (D24; log 14). -/
  dev : Nat
  /-- `BAUD` (R22). -/
  baud : Word
  /-- `DATA_BITS` (R23). -/
  dataBits : Byte
  /-- `PARITY` (R24). -/
  parity : Byte
  /-- `STOP_BITS` (R25). -/
  stopBits : Byte
  /-- `DIRECTION` (R26). -/
  direction : Byte
  /-- `CMD` (R27). -/
  cmd : Byte
  /-- `SPAN` (R27). -/
  span : Half
  /-- `TRIES` (R28). -/
  tries : Word
  /-- `TIMEOUT_S` (R29). -/
  timeoutS : Word
deriving DecidableEq, Repr

/-- What the host can do to the unit: write one configuration register, or call `processCommand` (R7, R45, R230; log 6). -/
inductive HostAction where
  | writeDev (v : Nat)
  | writeBaud (v : Word)
  | writeDataBits (v : Byte)
  | writeParity (v : Byte)
  | writeStopBits (v : Byte)
  | writeDirection (v : Byte)
  | writeCmd (v : Byte)
  | writeSpan (v : Half)
  | writeTries (v : Word)
  | writeTimeoutS (v : Word)
  | processCommand
deriving DecidableEq, Repr

/-- The environment's answers not yet drawn, one list per request of R11, oldest first. A request whose list is empty draws
a free value of Config at the counter `draws` (log 4). -/
structure Env where
  opens : List OpenAnswer
  getAttrs : List GetAttrAnswer
  setAttrs : List Ack
  polls : List PollAnswer
  writes : List WriteAnswer
  reads : List ReadAnswer
  closes : List Ack
  draws : Nat
deriving DecidableEq, Repr

/-- One environment request with its arguments and the answer drawn (R11). -/
inductive Event where
  | openDev (dev : Nat) (answer : OpenAnswer)
  | getAttr (fd : Nat) (answer : GetAttrAnswer)
  | setAttr (fd : Nat) (attr : DeviceAttr) (answer : Ack)
  | poll (dir : Dir) (fd : Nat) (seconds : Word) (answer : PollAnswer)
  | xferWrite (fd : Nat) (bytes : List Byte) (answer : WriteAnswer)
  | xferRead (fd : Nat) (count : Nat) (answer : ReadAnswer)
  | close (fd : Nat) (answer : Ack)
deriving DecidableEq, Repr

/-- The machine's state: every register of 10_state.md, then the model's own fields. -/
structure State where
  /-- The configuration registers as the host wrote them (R20 to R29). -/
  cfg : ConfigRegs
  /-- The configuration registers as the session sampled them (R230, D15; log 15). -/
  session : ConfigRegs
  /-- `STATE` (R30). -/
  state : SessionState
  /-- `REASON` (R31). -/
  reason : Reason
  /-- `CFGERR` (R31). -/
  cfgerr : CfgErr
  /-- `PROTOERR` (R31). -/
  protoerr : ProtoErr
  /-- `IOERR` (R31). -/
  ioerr : IoErr
  /-- `TXBUF` (R33). -/
  txbuf : Memory
  /-- `RXBUF` (R34). -/
  rxbuf : Memory
  /-- `CONC` (R35). -/
  conc : Half
  /-- `REMAIN` (R36). -/
  remain : Word
  /-- `MOVED` (R37). -/
  moved : Nat
  /-- `FD` (R38): an opaque identifier (log 14). -/
  fd : Nat
  /-- `FD_OPEN` (R38). -/
  fdOpen : Bool
  /-- `ATTR` (R39). -/
  attr : DeviceAttr
  /-- `OPENS`, ghost (R40). -/
  opens : Nat
  /-- `CLOSES`, ghost (R40). -/
  closes : Nat
  /-- The model's: `processCommand` was called and has not returned (log 7). -/
  running : Bool
  /-- The model's: the progress inside the current `STATE` (log 7). -/
  progress : Progress
  /-- The model's: the environment's answers to come (log 4). -/
  env : Env
  /-- The model's: the host's actions to come, oldest first (log 6). -/
  host : List HostAction
  /-- The model's ghost: the session's environment requests, newest first; nothing reads it (log 21). -/
  trace : List Event
deriving DecidableEq, Repr

/-- Why the machine stops with a fault. Both stop a read or a write the spec does not define; no rule performs one on any
path from reset. -/
inductive Fault where
  /-- Raised by `memRead` and `memWrite` for an access that reaches past offset 8 (R10, R60, R66). Safe. -/
  | bufferBounds (endOffset : Nat)
  /-- Raised by `memRead` for a byte of a packet buffer that nothing has written (R34, R44). Safe. -/
  | unwrittenByte (offset : Nat)
deriving DecidableEq, Repr

/-- What the spec gives no meaning. -/
inductive Refusal where
  /-- Raised by `exec` for an instruction without a meaning. Safe. -/
  | notModelled (mnemonic : String)
  /-- Raised by the start step: a session with `TRIES = 0` (R233, D7, U9). Safe. -/
  | triesZero
  /-- Raised by the host turn and the start step: a host action while `BUSY` (R45, R230, R326, D30, U12). Safe. -/
  | hostActionWhileBusy
  /-- Raised by a transfer whose direction is neither Read nor Write, with no timeout (R209, D20, U11). Safe. -/
  | otherDirectionWithoutTimeout
  /-- Raised by PARSE_GAS on an absent packet (R150, D6). Safe. -/
  | parseOfAbsentPacket
deriving DecidableEq, Repr

/-- The configuration registers after reset: the spec gives no value (R44); 0, and 1 for `TRIES`, whose legal values begin
at 1 (R28) (DESIGN CHOICE, unsafe; log 1, log 2). -/
def ConfigRegs.reset : ConfigRegs :=
  { dev := 0, baud := 0, dataBits := 0, parity := 0, stopBits := 0, direction := 0, cmd := 0, span := 0,
    tries := 1, timeoutS := 0 }

/-- No answer is waiting and no free value has been drawn. -/
def Env.empty : Env :=
  { opens := [], getAttrs := [], setAttrs := [], polls := [], writes := [], reads := [], closes := [], draws := 0 }

/-- The unit after reset (R44, R320): `STATE = Idle`, the failure registers `None`, `FD_OPEN = 0`, the ghost counters 0; every
register without a reset value as log 1 and log 2 say; the buffers hold no byte (log 3). -/
def State.reset : State :=
  { cfg := ConfigRegs.reset
    session := ConfigRegs.reset
    state := .idle
    reason := .none
    cfgerr := .none
    protoerr := .none
    ioerr := .none
    txbuf := []
    rxbuf := []
    conc := 0
    remain := 0
    moved := 0
    fd := 0
    fdOpen := false
    attr := { iflag := 0, oflag := 0, cflag := 0, lflag := 0, line := 0, cc := 0, ispeed := 0, ospeed := 0 }
    opens := 0
    closes := 0
    running := false
    progress := .ready
    env := Env.empty
    host := []
    trace := [] }

end Sys2Proof.Machine
end

