-- ==== Sys2Proof/Machine/Flags.lean ====
section
/-! DEFINITION. Flags. The unit has no arithmetic flags; its status is derived from STATE (10_state.md R32). The terminal
flag words and the three LineEncoding transforms (41_line_encoding.md R130 to R135), for any width and any layout; the
machine's own layout; the numeric codes of the status registers (R30, R281 to R284). -/

namespace Sys2Proof.Machine

open Sys2Proof.Config

/-! ### Status (R32) -/

/-- `BUSY`: `STATE` is none of Idle, Done, Failed (R32). -/
def State.busy (s : State) : Bool :=
  match s.state with
  | .idle => false
  | .portOpened => true
  | .portConfigured => true
  | .requestSent => true
  | .responseReceived => true
  | .done => false
  | .failed => false

/-- `SUCCESS`: `STATE = Done` (R32). -/
def State.success (s : State) : Bool := s.state == .done

/-- `FAILURE`: `STATE = Failed` (R32). -/
def State.failure (s : State) : Bool := s.state == .failed

/-- What `processCommand` returns (R256). -/
inductive ReturnCode where
  | success
  | failure (why : Reason)
deriving DecidableEq, Repr

/-- The code `processCommand` returned, once `STATE` is Done or Failed (R256, R32). -/
def State.returnCode (s : State) : Option ReturnCode :=
  match s.state with
  | .done => some .success
  | .failed => some (.failure s.reason)
  | .idle => none
  | .portOpened => none
  | .portConfigured => none
  | .requestSent => none
  | .responseReceived => none

/-- The 3-bit code of `STATE` (R30). -/
def SessionState.code : SessionState → BitVec 3
  | .idle => 0
  | .portOpened => 1
  | .portConfigured => 2
  | .requestSent => 3
  | .responseReceived => 4
  | .done => 5
  | .failed => 6

/-- The 4-bit code of `REASON` (R281). -/
def Reason.code : Reason → BitVec 4
  | .none => 0
  | .openError => 1
  | .configError => 2
  | .unsupportedCommand => 3
  | .writeError => 4
  | .readError => 5
  | .protocolError => 6
  | .closeError => 7

/-- The 4-bit code of `CFGERR`: the number of the failing CONFIGURE step (R282). -/
def CfgErr.code : CfgErr → BitVec 4
  | .none => 0
  | .unsupportedBaudRate => 1
  | .getAttrFailed => 3
  | .unsupportedDirection => 4
  | .unsupportedDataBits => 5
  | .unsupportedParity => 6
  | .unsupportedStopBits => 7
  | .setAttrFailed => 9

/-- The 2-bit code of `PROTOERR` (R283). -/
def ProtoErr.code : ProtoErr → BitVec 2
  | .none => 0
  | .badStart => 1
  | .badCommand => 2
  | .badChecksum => 3

/-- The 3-bit code of `IOERR` (R284). -/
def IoErr.code : IoErr → BitVec 3
  | .none => 0
  | .deadlineExceeded => 1
  | .waitFailed => 2
  | .transferFailed => 3
  | .unsupportedOperation => 4

/-! ### The flag layout (R130) -/

/-- Exactly one bit of the word is set. -/
abbrev oneBit {W : Nat} (x : BitVec W) : Prop := x ≠ 0 ∧ x &&& (x - 1) = 0

/-- The bits each member occupies, with the flags word it lives in (R130, `word(m)`). -/
def layoutMembers {W : Nat} (L : FlagLayout W) : List (FlagWordName × BitVec W) :=
  [(.cflag, L.csizeMask), (.cflag, L.parEnable), (.cflag, L.parOdd), (.cflag, L.stop2),
   (L.ignModemWord, L.ignModem), (L.rxEnableWord, L.rxEnable), (L.canonWord, L.canon), (L.echoWord, L.echo),
   (L.signalsWord, L.signals)]

/-- The constraints of R130, all of them: four different patterns inside a non-zero mask, one-bit flags, members that share
a word disjoint. -/
abbrev FlagLayout.Ok {W : Nat} (L : FlagLayout W) : Prop :=
  L.csizeMask ≠ 0
  ∧ (∀ p ∈ [L.cs5, L.cs6, L.cs7, L.cs8], p &&& ~~~L.csizeMask = 0)
  ∧ [L.cs5, L.cs6, L.cs7, L.cs8].Nodup
  ∧ (∀ f ∈ [L.parEnable, L.parOdd, L.stop2, L.ignModem, L.rxEnable, L.canon, L.echo, L.signals], oneBit f)
  ∧ (layoutMembers L).Pairwise (fun a b => a.1 = b.1 → a.2 &&& b.2 = 0)

/-- A layout of the model's own making, admissible for every width from 5 bits up; it stands in only where the platform's
constant breaks a constraint of R130 (log 11). -/
def plainLayout {W : Nat} : FlagLayout W :=
  { csizeMask := 0x3, cs5 := 0x0, cs6 := 0x1, cs7 := 0x2, cs8 := 0x3
    parEnable := 0x4, parOdd := 0x8, stop2 := 0x10
    canon := 0x1, echo := 0x2, signals := 0x4, ignModem := 0x8, rxEnable := 0x10
    ignModemWord := .lflag, rxEnableWord := .lflag, canonWord := .lflag, echoWord := .lflag, signalsWord := .lflag }

/-- The machine's layout: the platform's free constant, held to the constraints of R130 (D12; log 11). -/
def layout : FlagLayout flagWidth := if FlagLayout.Ok Config.flagLayout then Config.flagLayout else plainLayout

/-! ### LineEncoding (R131 to R135) -/

/-- `(flags AND NOT mask) OR pattern`: replaces one sub-field ("clear then OR", R132). -/
def replaceField {W : Nat} (mask pattern flags : BitVec W) : BitVec W := (flags &&& ~~~mask) ||| pattern

/-- The character-size pattern for a number of data bits; `none` is UnsupportedDataBits (R132). -/
def dataBitsPattern {W : Nat} (L : FlagLayout W) (n : Byte) : Option (BitVec W) :=
  if n = 5 then some L.cs5
  else if n = 6 then some L.cs6
  else if n = 7 then some L.cs7
  else if n = 8 then some L.cs8
  else none

/-- APPLY_DATABITS (R132). `none` is the failure UnsupportedDataBits(n): no flags word is returned (R131). -/
def applyDataBits {W : Nat} (L : FlagLayout W) (n : Byte) (flags : BitVec W) : Option (BitVec W) :=
  (dataBitsPattern L n).map (fun p => replaceField L.csizeMask p flags)

/-- `upper(c)`: the codes of 'a'..'z' map to those of 'A'..'Z', every other code is unchanged (R133; ASCII: log 24). -/
def upper (c : Byte) : Byte := if 0x61#8 ≤ c ∧ c ≤ 0x7A#8 then c - 0x20#8 else c

/-- The parity pattern for a character; `none` is UnsupportedParity. 'S' gives what 'N' gives (R133, U1). -/
def parityPattern {W : Nat} (L : FlagLayout W) (c : Byte) : Option (BitVec W) :=
  if upper c = 0x4E#8 ∨ upper c = 0x53#8 then some 0
  else if upper c = 0x45#8 then some L.parEnable
  else if upper c = 0x4F#8 then some (L.parEnable ||| L.parOdd)
  else none

/-- APPLY_PARITY (R133, D19). `none` is the failure UnsupportedParity(c). -/
def applyParity {W : Nat} (L : FlagLayout W) (c : Byte) (flags : BitVec W) : Option (BitVec W) :=
  (parityPattern L c).map (fun p => replaceField (L.parEnable ||| L.parOdd) p flags)

/-- APPLY_STOPBITS (R134). `none` is the failure UnsupportedStopBits(n). -/
def applyStopBits {W : Nat} (L : FlagLayout W) (n : Byte) (flags : BitVec W) : Option (BitVec W) :=
  if n = 10 then some (flags &&& ~~~L.stop2)
  else if n = 20 then some (flags ||| L.stop2)
  else none

/-! ### Raw mode (R187) -/

/-- The bits of `m` set in the named word of `a`. -/
def setBits {W : Nat} (w : FlagWordName) (m : BitVec W) (a : Attr W) : Attr W :=
  match w with
  | .cflag => { a with cflag := a.cflag ||| m }
  | .lflag => { a with lflag := a.lflag ||| m }

/-- The bits of `m` cleared in the named word of `a`. -/
def clearBits {W : Nat} (w : FlagWordName) (m : BitVec W) (a : Attr W) : Attr W :=
  match w with
  | .cflag => { a with cflag := a.cflag &&& ~~~m }
  | .lflag => { a with lflag := a.lflag &&& ~~~m }

/-- CONFIGURE step 8: IGN_MODEM and RX_ENABLE set, CANON, ECHO and SIGNALS cleared, each in its word (R182, R187). -/
def rawMode {W : Nat} (L : FlagLayout W) (a : Attr W) : Attr W :=
  clearBits L.signalsWord L.signals (clearBits L.echoWord L.echo (clearBits L.canonWord L.canon
    (setBits L.rxEnableWord L.rxEnable (setBits L.ignModemWord L.ignModem a))))

end Sys2Proof.Machine
end

