-- ==== Sys2Proof/Machine/Ops.lean ====
section
/-! DEFINITION. The named operations: the packet buffers (20_memory.md R60 to R66), the six environment requests
(00_scope.md R11), the entry into Failed and Done as one shared operation (60_exceptions.md R300, 45_sensor_session.md R255),
and beside it the only way out of them, the start of the next session (R230, R302). -/

namespace Sys2Proof.Machine

open Sys2Proof.Config

/-- Go on with the result of an operation, or stop as it stopped. -/
def thenDo {α β : Type} (o : Host.Outcome α Fault Refusal) (f : α → Host.Outcome β Fault Refusal) :
    Host.Outcome β Fault Refusal :=
  match o with
  | .next a => f a
  | .fault r => .fault r
  | .refused r => .refused r

/-! ### The packet buffers -/

/-- The byte a buffer holds at an offset; `none` where nothing has been written (R34). -/
def Memory.read? (m : Memory) (off : Nat) : Option Byte :=
  match m with
  | [] => none
  | (k, v) :: rest => if k = off then some v else Memory.read? rest off

/-- One byte written, the entries kept in rising order. -/
def Memory.write (m : Memory) (off : Nat) (v : Byte) : Memory :=
  match m with
  | [] => [(off, v)]
  | (k, w) :: rest =>
    if off < k then (off, v) :: (k, w) :: rest
    else if off = k then (off, v) :: rest
    else (k, w) :: Memory.write rest off v

/-- Bytes written from an offset upward, in order (R63). -/
def Memory.store (m : Memory) (off : Nat) (bytes : List Byte) : Memory :=
  match bytes with
  | [] => m
  | b :: bs => Memory.store (Memory.write m off b) (off + 1) bs

/-- The canonical form: offsets strictly rising, all of them offsets of a packet (R60: 0 to 8). No entry can equal what an
unlisted offset reads as, because an unlisted offset reads as nothing. -/
abbrev Memory.wf (m : Memory) : Prop := m.Pairwise (fun a b => a.1 < b.1) ∧ ∀ c ∈ m, c.1 < pktLen

/-- Every byte of the buffer has been written. -/
def Memory.full (m : Memory) : Bool := (List.range pktLen).all (fun off => (Memory.read? m off).isSome)

/-- `n` bytes from an offset upward; a byte nothing has written faults (R34). -/
def readBytes (m : Memory) (off n : Nat) : Host.Outcome (List Byte) Fault Refusal :=
  match n with
  | 0 => .next []
  | n + 1 =>
    match Memory.read? m off with
    | none => .fault (.unwrittenByte off)
    | some b => thenDo (readBytes m (off + 1) n) (fun bs => .next (b :: bs))

/-- `MemRead(B, off, n)`, defined only for `off + n <= 9` (R10). -/
def memRead (m : Memory) (off n : Nat) : Host.Outcome (List Byte) Fault Refusal :=
  if off + n ≤ pktLen then readBytes m off n else .fault (.bufferBounds (off + n))

/-- `MemWrite(B, off, n, v)` with `n` the length of `v`, defined only for `off + n <= 9` (R10). -/
def memWrite (m : Memory) (off : Nat) (bytes : List Byte) : Host.Outcome Memory Fault Refusal :=
  if off + bytes.length ≤ pktLen then .next (Memory.store m off bytes)
  else .fault (.bufferBounds (off + bytes.length))

/-- The nine bytes of a buffer as a packet. -/
def readPacket (m : Memory) : Host.Outcome Packet Fault Refusal :=
  thenDo (memRead m 0 pktLen) fun bytes =>
    match Packet.ofList bytes with
    | some p => .next p
    | none => .fault (.bufferBounds pktLen)

/-! ### The environment's answers (R11) -/

/-- The next answer to a kind of request: the oldest one waiting, or a free value at the counter (log 4). The result is the
answer, the answers left and the counter. -/
def drawFrom {α : Type} (free : Nat → α) (waiting : List α) (draws : Nat) : α × List α × Nat :=
  match waiting with
  | a :: rest => (a, rest, draws)
  | [] => (free draws, [], draws + 1)

/-- The environment has been asked: its remaining answers, and the request recorded in the ghost trace. -/
def State.asked (s : State) (env : Env) (ev : Event) : State := { s with env := env, trace := ev :: s.trace }

/-- `EnvXfer` never answers more than was requested (R11); a waiting answer that does is cut to the requested count (log 5). -/
def WriteAnswer.bounded (n : Nat) : WriteAnswer → WriteAnswer
  | .moved k => .moved (min k n)
  | .again => .again
  | .fatal => .fatal

/-- As `WriteAnswer.bounded`, with the bytes read (log 5). -/
def ReadAnswer.bounded (n : Nat) : ReadAnswer → ReadAnswer
  | .moved bytes => .moved (bytes.take n)
  | .again => .again
  | .fatal => .fatal

/-- `draw EnvOpen(DEV)` with the session's `DEV` (R11, R244). -/
def envOpen (s : State) : OpenAnswer × State :=
  let d := drawFrom Config.openAnswer s.env.opens s.env.draws
  (d.1, s.asked { s.env with opens := d.2.1, draws := d.2.2 } (.openDev s.session.dev d.1))

/-- `draw EnvGetAttr(fd)` (R11, R182 step 3). -/
def envGetAttr (fd : Nat) (s : State) : GetAttrAnswer × State :=
  let d := drawFrom Config.getAttrAnswer s.env.getAttrs s.env.draws
  (d.1, s.asked { s.env with getAttrs := d.2.1, draws := d.2.2 } (.getAttr fd d.1))

/-- `draw EnvSetAttr(fd, attr)` (R11, R182 step 9). -/
def envSetAttr (fd : Nat) (attr : DeviceAttr) (s : State) : Ack × State :=
  let d := drawFrom Config.setAttrAnswer s.env.setAttrs s.env.draws
  (d.1, s.asked { s.env with setAttrs := d.2.1, draws := d.2.2 } (.setAttr fd attr d.1))

/-- `draw EnvPoll(FD, dir, seconds)` (R11, R203). -/
def envPoll (dir : Dir) (seconds : Word) (s : State) : PollAnswer × State :=
  let d := drawFrom Config.pollAnswer s.env.polls s.env.draws
  (d.1, s.asked { s.env with polls := d.2.1, draws := d.2.2 } (.poll dir s.fd seconds d.1))

/-- `draw EnvXfer(Write, FD, bytes, n)`, `n` the number of bytes offered (R11, R204). -/
def envWrite (bytes : List Byte) (s : State) : WriteAnswer × State :=
  let d := drawFrom Config.writeAnswer s.env.writes s.env.draws
  let a := WriteAnswer.bounded bytes.length d.1
  (a, s.asked { s.env with writes := d.2.1, draws := d.2.2 } (.xferWrite s.fd bytes a))

/-- `draw EnvXfer(Read, FD, n)` (R11, R205). -/
def envRead (n : Nat) (s : State) : ReadAnswer × State :=
  let d := drawFrom Config.readAnswer s.env.reads s.env.draws
  let a := ReadAnswer.bounded n d.1
  (a, s.asked { s.env with reads := d.2.1, draws := d.2.2 } (.xferRead s.fd n a))

/-- `draw EnvClose(FD)` (R11, R255). -/
def envClose (s : State) : Ack × State :=
  let d := drawFrom Config.closeAnswer s.env.closes s.env.draws
  (d.1, s.asked { s.env with closes := d.2.1, draws := d.2.2 } (.close s.fd d.1))

/-! ### The end of a session (R239 `finish` and `close_and_finish`, R255, R300) -/

/-- `finish(s, why)` (R239): `REASON`, then `STATE`; `processCommand` returns (R256). -/
def finish (target : SessionState) (why : Reason) (s : State) : State :=
  { s with reason := why, state := target, running := false, progress := .ready }

/-- The descriptor is given up, whatever the close answered: `FD_OPEN <- 0`, `CLOSES <- CLOSES + 1` (R255). -/
def State.closed (s : State) : State := { s with fdOpen := false, closes := s.closes + 1 }

/-- `close_and_finish(s, why)` (R239, R255, R300): the one way a session ends. If the descriptor is open it is closed, once; a
failing close turns Done into Failed(CloseError) and leaves an earlier reason. Where `FD_OPEN = 0` no close is issued
(R300 step 2; log 20). -/
def closeAndFinish (target : SessionState) (why : Reason) (s : State) : State :=
  if s.fdOpen then
    let q := envClose s
    if q.1 = .fail ∧ target = .done then finish .failed .closeError q.2.closed
    else finish target why q.2.closed
  else finish target why s

/-- Entry into `Failed(why)` (R300): the sub-cause register has been written, then the close step, `REASON`, `STATE`. -/
def takeFailure (why : Reason) (s : State) : State := closeAndFinish .failed why s

/-- The end of a session that succeeded (R250, R254). -/
def succeed (s : State) : State := closeAndFinish .done .none s

/-! ### The start of a session, the only way out of Done and Failed (R230, R302) -/

/-- The start step of R230: the ten registers are sampled (with the command `cmd` the start selects), the failure registers
and the ghost counters cleared, `STATE <- Idle`; `CONC`, `TXBUF`, `RXBUF` keep what they held. -/
def started (cmd : Byte) (s : State) : State :=
  { s with
    session := { s.cfg with cmd := cmd }
    state := .idle
    reason := .none
    cfgerr := .none
    protoerr := .none
    ioerr := .none
    opens := 0
    closes := 0
    running := true
    progress := .ready
    trace := [] }

/-- `processCommand` called with the command `cmd`: refused while `BUSY` (R230) and with `TRIES = 0` (R233). -/
def startSession (cmd : Byte) (s : State) : Host.Outcome State Fault Refusal :=
  if s.busy then .refused .hostActionWhileBusy
  else if s.cfg.tries = 0 then .refused .triesZero
  else .next (started cmd s)

end Sys2Proof.Machine
end

