-- ==== Sys2Proof/Machine/Codec.lean ====
section
/-! DEFINITION. PacketCodec: CHECKSUM, the three BUILD operations, PARSE_GAS (42_packet_codec.md). Pure functions. -/

namespace Sys2Proof.Machine

/-- The running total of R152's loop over payload bytes: each byte subtracted modulo 256. -/
def checksumLoop (t : Byte) (payload : List Byte) : Byte :=
  match payload with
  | [] => t
  | b :: bs => checksumLoop (t - b) bs

/-- CHECKSUM of a present packet (R152): from 0xFF, subtract the seven payload bytes, add 1. -/
def packetChecksum (p : Packet) : Byte := checksumLoop 0xFF#8 p.payload + 1

/-- CHECKSUM of a packet operand, present or absent (R150, R152): the absent packet gives the sentinel 0xFF. -/
def checksum (p : Option Packet) : Byte :=
  match p with
  | none => 0xFF#8
  | some p => packetChecksum p

/-- The last step of every BUILD operation: CHECKSUM into offset 8 (R96). -/
def embedChecksum (p : Packet) : Packet := { p with b8 := checksum (some p) }

/-- BUILD_READ_GAS (R155). -/
def buildReadGas : Packet := embedChecksum ⟨startMarker, sensorId, cmdRead, 0, 0, 0, 0, 0, 0⟩

/-- BUILD_CAL_ZERO (R156). -/
def buildCalZero : Packet := embedChecksum ⟨startMarker, sensorId, cmdZero, 0, 0, 0, 0, 0, 0⟩

/-- BUILD_CAL_SPAN (R157): the span point big-endian at offsets 3 and 4 (R94). -/
def buildCalSpan (spanPoint : Half) : Packet :=
  embedChecksum ⟨startMarker, sensorId, cmdSpan, hiByte spanPoint, loByte spanPoint, 0, 0, 0, 0⟩

/-- The result of PARSE_GAS on a present packet (R160): the concentration, or the first failing check. -/
inductive ParseResult where
  | ok (concentration : Half)
  | invalid (why : ProtoErr)
deriving DecidableEq, Repr

/-- PARSE_GAS of a present packet (R160): start byte, command byte, checksum, in that order; then the big-endian
concentration (R95). Offsets 4 to 7 are not tested (R93). -/
def parseGas (p : Packet) : ParseResult :=
  if p.b0 ≠ startMarker then .invalid .badStart
  else if p.b1 ≠ cmdRead then .invalid .badCommand
  else if p.b8 ≠ checksum (some p) then .invalid .badChecksum
  else .ok (joinBytes p.b2 p.b3)

/-- PARSE_GAS of a packet operand: an absent packet is refused (R150, D6). -/
def parseGasOperand (p : Option Packet) : Host.Outcome ParseResult Fault Refusal :=
  match p with
  | some p => .next (parseGas p)
  | none => .refused .parseOfAbsentPacket

end Sys2Proof.Machine
end

