-- ==== Sys2Proof/Machine/Baud.lean ====
section
/-! DEFINITION. BaudTable: LOOKUP_BAUD (40_baud_table.md). -/

namespace Sys2Proof.Machine

open Sys2Proof.Config

/-- `BAUD_SET`, the 31 supported rates in the table's order (R120). -/
def baudSet : List Word :=
  [0, 50, 75, 110, 134, 150, 200, 300,
   600, 1200, 1800, 2400, 4800, 9600, 19200, 38400,
   57600, 115200, 230400, 460800, 500000, 576000, 921600, 1000000,
   1152000, 1500000, 2000000, 2500000, 3000000, 3500000, 4000000]

/-- `SpeedCode`: the platform's free constant, held to the one thing the spec says of it, that it is injective on `BAUD_SET`
(R120, D12). Where the constant is not, the rate's own number stands in (log 13). -/
def speedCode (rate : Word) : SpeedCode :=
  if (baudSet.map Config.rawSpeedCode).Nodup then Config.rawSpeedCode rate else rate.toNat

/-- The linear scan of R121 over a table of rates. -/
def scanBaud (rates : List Word) (rate : Word) : Option SpeedCode :=
  match rates with
  | [] => none
  | r :: rest => if r = rate then some (speedCode r) else scanBaud rest rate

/-- LOOKUP_BAUD (R121). `none` is the failure UnsupportedBaudRate(rate). No side effects. -/
def lookupBaud (rate : Word) : Option SpeedCode := scanBaud baudSet rate

end Sys2Proof.Machine
end

