-- ==== Sys2Proof/Machine/Operands.lean ====
section
/-! DEFINITION. Operands: the configuration registers as operands, the "not requested" values (43_port_configurator.md R181),
the direction codes (10_state.md R26), the host's register writes and reads (R45), and the fields a packet is assembled
from (30_encoding.md R94, R95). -/

namespace Sys2Proof.Machine

open Sys2Proof.Config

/-- The direction operand of CONFIGURE (R26, R182). -/
inductive Direction where
  | unset
  | input
  | output
  | both
  | unrecognised (code : Byte)
deriving DecidableEq, Repr

/-- The codes of R26: 0 Unset, 1 Input, 2 Output, 3 Both, 4 to 255 unrecognised. -/
def Direction.ofCode (code : Byte) : Direction :=
  if code = 0 then .unset
  else if code = 1 then .input
  else if code = 2 then .output
  else if code = 3 then .both
  else .unrecognised code

/-- Nothing at all is requested: CONFIGURE step 2 (R181, R182). -/
def nothingRequested (direction : Direction) (dataBits parity stopBits : Byte) : Bool :=
  direction == .unset && dataBits == 0 && parity == 0 && stopBits == 0

/-- Apply a line-encoding operand unless it is its "not requested" value 0 (R181, R182 steps 5 to 7). -/
def applyIfRequested {W : Nat} (apply : Byte → BitVec W → Option (BitVec W)) (operand : Byte) (flags : BitVec W) :
    Option (BitVec W) :=
  if operand = 0 then some flags else apply operand flags

/-- One register write of the host, with no check (R21 to R29): the configuration registers after it. `processCommand` writes none. -/
def HostAction.write (a : HostAction) (c : ConfigRegs) : ConfigRegs :=
  match a with
  | .writeDev v => { c with dev := v }
  | .writeBaud v => { c with baud := v }
  | .writeDataBits v => { c with dataBits := v }
  | .writeParity v => { c with parity := v }
  | .writeStopBits v => { c with stopBits := v }
  | .writeDirection v => { c with direction := v }
  | .writeCmd v => { c with cmd := v }
  | .writeSpan v => { c with span := v }
  | .writeTries v => { c with tries := v }
  | .writeTimeoutS v => { c with timeoutS := v }
  | .processCommand => c

/-- A host write of a configuration register: refused while `BUSY` (R45, R326). -/
def hostWrite (a : HostAction) (s : State) : Host.Outcome State Fault Refusal :=
  if s.busy then .refused .hostActionWhileBusy else .next { s with cfg := a.write s.cfg }

/-- What the host may read, at any time (R45), in the codes of R30 and R281 to R284. -/
structure HostView where
  state : BitVec 3
  reason : BitVec 4
  cfgerr : BitVec 4
  protoerr : BitVec 2
  ioerr : BitVec 3
  conc : Half
deriving DecidableEq, Repr

/-- The host's view of the unit. `TXBUF`, `RXBUF`, `REMAIN`, `MOVED`, `FD`, `FD_OPEN` and `ATTR` are not in it (R45). -/
def State.hostView (s : State) : HostView :=
  { state := s.state.code, reason := s.reason.code, cfgerr := s.cfgerr.code, protoerr := s.protoerr.code,
    ioerr := s.ioerr.code, conc := s.conc }

end Sys2Proof.Machine
end

