-- ==== Sys2Proof/Machine/Configure.lean ====
section
/-! DEFINITION. PortConfigurator: CONFIGURE (43_port_configurator.md). -/

namespace Sys2Proof.Machine

open Sys2Proof.Config

/-- A failure of CONFIGURE with the value R280 records for it. -/
inductive ConfigFailure where
  | unsupportedBaudRate (rate : Word)
  | getAttrFailed
  | unsupportedDirection (code : Byte)
  | unsupportedDataBits (n : Byte)
  | unsupportedParity (c : Byte)
  | unsupportedStopBits (n : Byte)
  | setAttrFailed
deriving DecidableEq, Repr

/-- What `CFGERR` holds for a failure (R282). -/
def ConfigFailure.toCfgErr : ConfigFailure → CfgErr
  | .unsupportedBaudRate _ => .unsupportedBaudRate
  | .getAttrFailed => .getAttrFailed
  | .unsupportedDirection _ => .unsupportedDirection
  | .unsupportedDataBits _ => .unsupportedDataBits
  | .unsupportedParity _ => .unsupportedParity
  | .unsupportedStopBits _ => .unsupportedStopBits
  | .setAttrFailed => .setAttrFailed

/-- The three results of CONFIGURE (R183, C12). -/
inductive ConfigResult where
  | success
  | noOp
  | failed (why : ConfigFailure)
deriving DecidableEq, Repr

/-- Step 4: the speed set for the requested direction, "Both via a single combined setter" (R182, R186). -/
def setSpeed {W : Nat} (code : SpeedCode) (direction : Direction) (a : Attr W) : Attr W × Option ConfigFailure :=
  match direction with
  | .input => ({ a with ispeed := code }, none)
  | .output => ({ a with ospeed := code }, none)
  | .both => ({ a with ispeed := code, ospeed := code }, none)
  | .unset => (a, none)
  | .unrecognised c => (a, some (.unsupportedDirection c))

/-- Steps 5 to 7: one line-encoding operand applied to `ATTR.cflag`, if it is requested. -/
def encodeStep {W : Nat} (apply : Byte → BitVec W → Option (BitVec W)) (operand : Byte) (why : ConfigFailure) (a : Attr W) :
    Attr W × Option ConfigFailure :=
  match applyIfRequested apply operand a.cflag with
  | some c => ({ a with cflag := c }, none)
  | none => (a, some why)

/-- A step that runs only if no earlier one failed (R182: "each a possible early-exit failure"). -/
def thenStep {W : Nat} (r : Attr W × Option ConfigFailure) (step : Attr W → Attr W × Option ConfigFailure) :
    Attr W × Option ConfigFailure :=
  match r.2 with
  | none => step r.1
  | some why => (r.1, some why)

/-- Steps 4 to 8 on the working copy: the copy as the steps left it, and the failure that ended them if there was one (R182,
R293; the copy after a failure: log 27). -/
def editAttr {W : Nat} (L : FlagLayout W) (code : SpeedCode) (direction : Direction) (dataBits parity stopBits : Byte)
    (a : Attr W) : Attr W × Option ConfigFailure :=
  thenStep (thenStep (thenStep (thenStep (setSpeed code direction a)
    (encodeStep (applyDataBits L) dataBits (.unsupportedDataBits dataBits)))
    (encodeStep (applyParity L) parity (.unsupportedParity parity)))
    (encodeStep (applyStopBits L) stopBits (.unsupportedStopBits stopBits)))
    (fun a => (rawMode L a, none))

/-- Step 9: the working copy written back (R182). -/
def writeAttr (fd : Nat) (s : State) : ConfigResult × State :=
  let q := envSetAttr fd s.attr s
  (if q.1 = .ok then .success else .failed .setAttrFailed, q.2)

/-- Steps 4 to 9, once `ATTR` holds the structure read (R182). -/
def editAndWrite (fd : Nat) (code : SpeedCode) (direction : Direction) (dataBits parity stopBits : Byte) (s : State) :
    ConfigResult × State :=
  let e := editAttr layout code direction dataBits parity stopBits s.attr
  match e.2 with
  | some why => (.failed why, { s with attr := e.1 })
  | none => writeAttr fd { s with attr := e.1 }

/-- CONFIGURE (R182), the direction operand as its 8-bit code (R26). -/
def configure (fd : Nat) (baud : Word) (directionCode dataBits parity stopBits : Byte) (s : State) : ConfigResult × State :=
  match lookupBaud baud with
  | none => (.failed (.unsupportedBaudRate baud), s)
  | some code =>
    if nothingRequested (Direction.ofCode directionCode) dataBits parity stopBits then (.noOp, s)
    else
      match envGetAttr fd s with
      | (.fail, s') => (.failed .getAttrFailed, s')
      | (.ok a, s') =>
        editAndWrite fd code (Direction.ofCode directionCode) dataBits parity stopBits { s' with attr := a }

/-- CONFIGURE as a stand-alone operation on the host's registers: the one use of `DIRECTION` (R26). -/
def configureStandAlone (s : State) : ConfigResult × State :=
  configure s.fd s.cfg.baud s.cfg.direction s.cfg.dataBits s.cfg.parity s.cfg.stopBits s

/-- CONFIGURE as a session runs it: the sampled registers and `direction = Both` (R180, R231). -/
def configureSession (s : State) : ConfigResult × State :=
  configure s.fd s.session.baud 3#8 s.session.dataBits s.session.parity s.session.stopBits s

end Sys2Proof.Machine
end

