-- ==== Sys2Proof/Machine/Transfer.lean ====
section
/-! DEFINITION. ReliableIO: one pass of PERFORM_TRANSFER's loop, the whole operation, XFER_WRITE and XFER_READ
(44_reliable_io.md). -/

namespace Sys2Proof.Machine

open Sys2Proof.Config

/-- Where a transfer stands after a pass of R203's loop: finished, going on, or failed with the count moved (R201). -/
inductive XferStatus where
  | full (length : Nat)
  | continuing
  | failed (why : IoErr) (moved : Nat)
deriving DecidableEq, Repr

/-- `MOVED <- MOVED + k`, then the loop's test `MOVED < length` (R203). -/
def advance (length k : Nat) (s : State) : XferStatus × State :=
  (if s.moved + k < length then .continuing else .full length, { s with moved := s.moved + k })

/-- `EnvXfer(Write, …)` of the remaining bytes of `TXBUF` (R203, R204). -/
def writeOnce (length : Nat) (s : State) : Host.Outcome (XferStatus × State) Fault Refusal :=
  thenDo (memRead s.txbuf s.moved (length - s.moved)) fun bytes =>
    match envWrite bytes s with
    | (.again, s') => .next (.continuing, s')
    | (.fatal, s') => .next (.failed .transferFailed s.moved, s')
    | (.moved k, s') => .next (advance length k s')

/-- `EnvXfer(Read, …)` of the remaining count, the bytes stored at `RXBUF[MOVED]` upward (R203, R205). -/
def readOnce (length : Nat) (s : State) : Host.Outcome (XferStatus × State) Fault Refusal :=
  match envRead (length - s.moved) s with
  | (.again, s') => .next (.continuing, s')
  | (.fatal, s') => .next (.failed .transferFailed s.moved, s')
  | (.moved bytes, s') =>
    thenDo (memWrite s'.rxbuf s'.moved bytes) fun m => .next (advance length bytes.length { s' with rxbuf := m })

/-- The underlying transfer in a direction. Without a timeout, a direction neither Read nor Write has no meaning (R209, D20). -/
def transferOnce (dir : Dir) (length : Nat) (s : State) : Host.Outcome (XferStatus × State) Fault Refusal :=
  match dir with
  | .write => writeOnce length s
  | .read => readOnce length s
  | .other => .refused .otherDirectionWithoutTimeout

/-- The readiness check of a pass, then the transfer (R203, R208). -/
def waitThenTransfer (dir : Dir) (length : Nat) (timeout : Word) (s : State) :
    Host.Outcome (XferStatus × State) Fault Refusal :=
  match envPoll dir timeout s with
  | (.fatal, s') => .next (.failed .waitFailed s.moved, s')
  | (.timedOut, s') => .next (.failed .deadlineExceeded s.moved, s')
  | (.ready, s') => transferOnce dir length s'

/-- One pass of R203's loop, `MOVED` bytes having moved: the loop's test, the readiness check if there is a timeout, the
transfer. A timeout for a direction neither Read nor Write is UnsupportedOperation, before any request (R208, R209). -/
def transferPass (dir : Dir) (length : Nat) (timeout : Word) (s : State) :
    Host.Outcome (XferStatus × State) Fault Refusal :=
  if s.moved < length then
    if timeout = 0 then transferOnce dir length s
    else if dir = .other then .next (.failed .unsupportedOperation s.moved, s)
    else waitThenTransfer dir length timeout s
  else .next (.full length, s)

/-- At most `fuel` passes of the loop, ending at the first that finishes or fails. -/
def transferLoop (fuel : Nat) (dir : Dir) (length : Nat) (timeout : Word) (s : State) :
    Host.Outcome (XferStatus × State) Fault Refusal :=
  match fuel with
  | 0 => .next (.continuing, s)
  | fuel + 1 =>
    thenDo (transferPass dir length timeout s) fun r =>
      match r with
      | (.continuing, s') => transferLoop fuel dir length timeout s'
      | (status, s') => .next (status, s')

/-- PERFORM_TRANSFER (R203), for at most `fuel` passes (the operation itself has no bound: R207, R212). `fd` is the register
`FD`, the buffer is `TXBUF` for Write and `RXBUF` for Read (R202). -/
def performTransfer (fuel : Nat) (dir : Dir) (length : Nat) (timeout : Word) (s : State) :
    Host.Outcome (XferStatus × State) Fault Refusal :=
  transferLoop fuel dir length timeout { s with moved := 0 }

/-- The start of a transfer the session has not begun: `MOVED <- 0` (R37, R203). -/
def beginTransfer (s : State) : State :=
  if s.progress = .moving then s else { s with moved := 0, progress := .moving }

/-- One pass of XFER_WRITE (R204). -/
def xferWritePass (s : State) : Host.Outcome (XferStatus × State) Fault Refusal :=
  transferPass .write pktLen s.session.timeoutS (beginTransfer s)

/-- One pass of XFER_READ (R205). -/
def xferReadPass (s : State) : Host.Outcome (XferStatus × State) Fault Refusal :=
  transferPass .read pktLen s.session.timeoutS (beginTransfer s)

end Sys2Proof.Machine
end

