-- ==== Sys2Proof/Machine/Session.lean ====
section
/-! DEFINITION. SensorSession: the transitions of the state machine (45_sensor_session.md R244 to R255) and the session as one
procedure cut at each of them (R239). -/

namespace Sys2Proof.Machine

open Sys2Proof.Config

/-- `Idle -> PortOpened` or `Idle -> Failed(OpenError)` (R244). -/
def openDevice (s : State) : State :=
  match envOpen s with
  | (.ok fd, s') => { s' with fd := fd, fdOpen := true, opens := 1, state := .portOpened, progress := .ready }
  | (.fail, s') => takeFailure .openError s'

/-- `PortOpened -> PortConfigured` or `PortOpened -> Failed(ConfigError)` (R245). -/
def configurePort (s : State) : State :=
  match configureSession s with
  | (.failed why, s') => takeFailure .configError { s' with cfgerr := why.toCfgErr }
  | (_, s') => { s' with state := .portConfigured, progress := .ready }

/-- First entry to `PortConfigured` with a recognised command: `TXBUF <-` the packet, `REMAIN <- TRIES`, once per session
(R247). -/
def armRequest (p : Packet) (s : State) : Host.Outcome State Fault Refusal :=
  thenDo (memWrite s.txbuf 0 p.toList) fun m =>
    .next { s with txbuf := m, remain := s.session.tries, progress := .looping }

/-- First entry to `PortConfigured`: the request the command selects (R247), or Failed(UnsupportedCommand) (R246, R243). -/
def selectRequest (cmd : Byte) (s : State) : Host.Outcome State Fault Refusal :=
  if cmd = 0 then armRequest buildReadGas s
  else if cmd = 1 then armRequest buildCalZero s
  else if cmd = 2 then armRequest (buildCalSpan s.session.span) s
  else .next (takeFailure .unsupportedCommand s)

/-- A shortfall (R234, R249, R251): `IOERR <-` the failure, `REMAIN <- REMAIN - 1`; at 0 the session fails with the reason of
this shortfall (R235), otherwise the attempt starts again with the write. -/
def shortfall (why : IoErr) (reason : Reason) (s : State) : State :=
  if s.remain - 1 = 0 then takeFailure reason { s with ioerr := why, remain := s.remain - 1 }
  else { s with ioerr := why, remain := s.remain - 1, state := .portConfigured, progress := .looping }

/-- A pass of XFER_WRITE in `PortConfigured`: to `RequestSent` when all 9 bytes have moved (R248), a shortfall on a failure
(R249). -/
def writeStep (s : State) : Host.Outcome State Fault Refusal :=
  thenDo (xferWritePass s) fun r =>
    match r with
    | (.full _, s') => .next { s' with state := .requestSent, progress := .ready }
    | (.continuing, s') => .next s'
    | (.failed why _, s') => .next (shortfall why .writeError s')

/-- A pass of XFER_READ in `RequestSent`: to `ResponseReceived` when all 9 bytes have moved (R252), a shortfall on a failure
(R251). -/
def readStep (s : State) : Host.Outcome State Fault Refusal :=
  thenDo (xferReadPass s) fun r =>
    match r with
    | (.full _, s') => .next { s' with state := .responseReceived, progress := .ready }
    | (.continuing, s') => .next s'
    | (.failed why _, s') => .next (shortfall why .readError s')

/-- `ResponseReceived -> Done` or `ResponseReceived -> Failed(ProtocolError)` on the packet received (R254, R237): `CONC` is
written before the close (D13). -/
def receive (p : Packet) (s : State) : State :=
  match parseGas p with
  | .ok c => succeed { s with conc := c }
  | .invalid why => takeFailure .protocolError { s with protoerr := why }

/-- PARSE_GAS on `RXBUF` (R254). -/
def parseStep (s : State) : Host.Outcome State Fault Refusal :=
  thenDo (readPacket s.rxbuf) fun p => .next (receive p s)

/-- One transition of the session with command `cmd` (R239, R253). `Done` and `Failed` have none: `processCommand` has
returned (R257). -/
def sessionStep (cmd : Byte) (s : State) : Host.Outcome State Fault Refusal :=
  match s.state with
  | .idle => .next (openDevice s)
  | .portOpened => .next (configurePort s)
  | .portConfigured => if s.progress = .ready then selectRequest cmd s else writeStep s
  | .requestSent => if cmd = 0 then readStep s else .next (succeed s)
  | .responseReceived => parseStep s
  | .done => .next { s with running := false }
  | .failed => .next { s with running := false }

/-- The session with command `cmd`: outside a session the start step (R230), inside one its next transition. -/
def session (cmd : Byte) (s : State) : Host.Outcome State Fault Refusal :=
  if s.running then sessionStep cmd s else startSession cmd s

end Sys2Proof.Machine
end

