-- ==== Sys2Proof/Machine/Commands.lean ====
section
/-! DEFINITION. The meanings of the three host commands (45_sensor_session.md R240 to R242) and the session of a command that
has no row (R243). -/

namespace Sys2Proof.Machine

/-- READ_GAS (R240): the session of R239 with `CMD = 0`. -/
def execReadGas (s : State) : Host.Outcome State Fault Refusal := session 0x00#8 s

/-- CAL_ZERO (R241): the session of R239 with `CMD = 1`. -/
def execCalZero (s : State) : Host.Outcome State Fault Refusal := session 0x01#8 s

/-- CAL_SPAN (R242): the session of R239 with `CMD = 2`; the span point is the `SPAN` register. -/
def execCalSpan (s : State) : Host.Outcome State Fault Refusal := session 0x02#8 s

/-- The unrecognised command (R243): the session of R239 with any other code. No row of the table stands for it. -/
def execUnrecognised (cmd : Byte) (s : State) : Host.Outcome State Fault Refusal := session cmd s

end Sys2Proof.Machine
end

