-- ==== Sys2Proof/Machine/Packets.lean ====
section
/-! DEFINITION. The meanings of the four wire packets. A request packet is built and becomes the session's request
(42_packet_codec.md R155 to R157, 45_sensor_session.md R247); a response packet is parsed and ends the session (R160, R254). -/

namespace Sys2Proof.Machine

/-- READ_GAS_REQ (R155, R247). -/
def execReadGasReq (s : State) : Host.Outcome State Fault Refusal := armRequest buildReadGas s

/-- CAL_ZERO_REQ (R156, R247). -/
def execCalZeroReq (s : State) : Host.Outcome State Fault Refusal := armRequest buildCalZero s

/-- CAL_SPAN_REQ (R157, R247): the checksum byte is the one BUILD_CAL_SPAN computes; in a well-formed instruction it is the
instruction's own ("not a free field"; log 10). -/
def execCalSpanReq (span : Half) (_checksum : Byte) (s : State) : Host.Outcome State Fault Refusal :=
  armRequest (buildCalSpan span) s

/-- READ_GAS_RESP (R160, R254): PARSE_GAS of the packet with these fields. -/
def execReadGasResp (concentration : Half) (reserved : BitVec 32) (checksum : Byte) (s : State) :
    Host.Outcome State Fault Refusal :=
  .next (receive (responsePacket concentration reserved checksum) s)

end Sys2Proof.Machine
end

