-- ==== Sys2Proof/Machine/Dispatch.lean ====
section
/-! DEFINITION. The dispatch: one arm per instruction. -/

namespace Sys2Proof.Machine

def exec (i : Instr) (s : State) : Host.Outcome State Fault Refusal :=
  match i with
  | .readGasReq => Sys2Proof.Machine.execReadGasReq s
  | .calZeroReq => Sys2Proof.Machine.execCalZeroReq s
  | .calSpanReq span checksum => Sys2Proof.Machine.execCalSpanReq span checksum s
  | .readGasResp concentration reserved checksum => Sys2Proof.Machine.execReadGasResp concentration reserved checksum s
  | .readGas => Sys2Proof.Machine.execReadGas s
  | .calZero => Sys2Proof.Machine.execCalZero s
  | .calSpan => Sys2Proof.Machine.execCalSpan s

end Sys2Proof.Machine
end

