-- ==== Sys2Proof/Machine/Fetch.lean ====
section
/-! DEFINITION. Where the next instruction stands, and the two turns a step can be: the host's, while no session runs, and the
unit's, while one does (00_scope.md R7, 10_state.md R45, 70_reset_and_hazards.md R320, R326; log 8). -/

namespace Sys2Proof.Machine

/-- The command a code of the `CMD` register stands for (R98); `none` for an unrecognised one (R101). -/
def commandInstr (code : Byte) : Option Instr := (decode [code]).toOption

/-- The request packet the session's command selects (R247); `none` for an unrecognised command (R246). -/
def requestInstr (c : ConfigRegs) : Option Instr :=
  if c.cmd = 0 then some .readGasReq
  else if c.cmd = 1 then some .calZeroReq
  else if c.cmd = 2 then some (.calSpanReq c.span (buildCalSpan c.span).b8)
  else none

/-- The response packet that stands in a buffer; `none` where the bytes are no READ_GAS_RESP (R93: an inbound packet is only
ever read as a response). -/
def responseInstr (m : Memory) : Option Instr :=
  match readPacket m with
  | .next p =>
    match decodePacket p with
    | .ok (.readGasResp concentration reserved checksum) => some (.readGasResp concentration reserved checksum)
    | _ => none
  | _ => none

/-- The instruction a running session is at: on first entry to `PortConfigured` the request packet its command selects, in
`ResponseReceived` the packet in `RXBUF`, elsewhere its command. `none` where no row of the table stands for it. -/
def fetchSession (s : State) : Option Instr :=
  match s.state with
  | .portConfigured => if s.progress = .ready then requestInstr s.session else commandInstr s.session.cmd
  | .responseReceived => responseInstr s.rxbuf
  | .idle => commandInstr s.session.cmd
  | .portOpened => commandInstr s.session.cmd
  | .requestSent => commandInstr s.session.cmd
  | .done => commandInstr s.session.cmd
  | .failed => commandInstr s.session.cmd

/-- The unit's turn: the instruction the session is at, or, where no row stands for it (an unrecognised command, an inbound
packet that is no response), the session of R239 itself. -/
def sessionTurn (s : State) : Host.Outcome State Fault Refusal :=
  match fetchSession s with
  | some i => exec i s
  | none => execUnrecognised s.session.cmd s

/-- `processCommand` with the command in `CMD` (R230, R243). -/
def hostCall (s : State) : Host.Outcome State Fault Refusal :=
  match commandInstr s.cfg.cmd with
  | some i => exec i s
  | none => execUnrecognised s.cfg.cmd s

/-- The host's turn: its oldest action is performed; without one the unit does nothing (R320). -/
def hostTurn (s : State) : Host.Outcome State Fault Refusal :=
  match s.host with
  | [] => .next s
  | a :: rest => if a = .processCommand then hostCall { s with host := rest } else hostWrite a { s with host := rest }

/-- The unit with a host call of the command `code` pending and no session running. -/
def State.callPending (code : Byte) (s : State) : State :=
  { s with cfg := { s.cfg with cmd := code }, host := .processCommand :: s.host, running := false, state := .idle }

/-- A session at its first entry to `PortConfigured` with command `cmd` selected (R247). -/
def State.atRequest (cmd : Byte) (s : State) : State :=
  { s with session := { s.session with cmd := cmd }, running := true, state := .portConfigured, progress := .ready }

/-- A session in `ResponseReceived` with the bytes in `RXBUF` (R252). -/
def State.atResponse (bytes : List Byte) (s : State) : State :=
  { s with rxbuf := Memory.store s.rxbuf 0 bytes, running := true, state := .responseReceived, progress := .ready }

/-- The bytes of an instruction placed where the next step fetches: a command in `CMD` with the call pending, a request
packet selected by its command and span, any other nine bytes in `RXBUF` (log 8). -/
def State.withFetchBytes (s : State) (bytes : List Byte) : State :=
  match decode bytes, bytes with
  | .ok .readGasReq, _ => s.atRequest 0
  | .ok .calZeroReq, _ => s.atRequest 1
  | .ok (.calSpanReq span _), _ => { s with session := { s.session with span := span } }.atRequest 2
  | _, [code] => s.callPending code
  | _, _ => s.atResponse bytes

end Sys2Proof.Machine
end

