-- ==== Sys2Proof/Machine/Step.lean ====
section
/-! DEFINITION. One step of the machine (00_scope.md R7: one transition at a time), and the placing of an instruction where the
next step fetches it. -/

namespace Sys2Proof.Machine

/-- One step: the unit's turn while a session runs, the host's turn otherwise. -/
def step (s : State) : Host.Outcome State Fault Refusal :=
  if s.running then sessionTurn s else hostTurn s

/-- `s` with the instruction whose table word is `w` placed where `step` fetches (log 8, log 9). -/
def State.withFetchWord (s : State) (nbits w : Nat) : State :=
  s.withFetchBytes (tableBytes (nbits / 8) w)

end Sys2Proof.Machine
end

