-- ==== Sys2Proof/Safety.lean ====
section
/-! DEFINITION. What counts as a safe state and a safe step, in the terms the claims use: the resource invariant of
45_sensor_session.md R258, the retry budget of R236, the buffers of 10_state.md R33 and R34, the order of the requests. -/

namespace Sys2Proof.Machine

open Sys2Proof.Config

/-- The retry loop has been entered and not left: `TXBUF` is built, `REMAIN` is loaded (R247). -/
def State.inLoop (s : State) : Bool :=
  match s.state with
  | .portConfigured => s.progress != .ready
  | .requestSent => true
  | .responseReceived => true
  | .idle => false
  | .portOpened => false
  | .done => false
  | .failed => false

/-- The packet a session's command sends; `none` for an unrecognised command (R247). -/
def requestPacket (c : ConfigRegs) : Option Packet :=
  if c.cmd = 0 then some buildReadGas
  else if c.cmd = 1 then some buildCalZero
  else if c.cmd = 2 then some (buildCalSpan c.span)
  else none

/-- The event is an `EnvPoll` or an `EnvXfer` (R286). -/
def Event.isTransfer : Event → Bool
  | .poll _ _ _ _ => true
  | .xferWrite _ _ _ => true
  | .xferRead _ _ _ => true
  | .openDev _ _ => false
  | .getAttr _ _ => false
  | .setAttr _ _ _ => false
  | .close _ _ => false

/-- The event is an `EnvOpen` answered `Ok` (R40). -/
def Event.isOpened : Event → Bool
  | .openDev _ (.ok _) => true
  | .openDev _ .fail => false
  | .poll _ _ _ _ => false
  | .xferWrite _ _ _ => false
  | .xferRead _ _ _ => false
  | .getAttr _ _ => false
  | .setAttr _ _ _ => false
  | .close _ _ => false

/-- The event is an `EnvClose`, whatever its answer (R40). -/
def Event.isClose : Event → Bool
  | .close _ _ => true
  | .openDev _ _ => false
  | .poll _ _ _ _ => false
  | .xferWrite _ _ _ => false
  | .xferRead _ _ _ => false
  | .getAttr _ _ => false
  | .setAttr _ _ _ => false

/-- The event ends its transfer as a shortfall: no readiness in time, a failed wait, a failed transfer (R234). -/
def Event.isShortfall : Event → Bool
  | .poll _ _ _ .timedOut => true
  | .poll _ _ _ .fatal => true
  | .poll _ _ _ .ready => false
  | .xferWrite _ _ .fatal => true
  | .xferWrite _ _ .again => false
  | .xferWrite _ _ (.moved _) => false
  | .xferRead _ _ .fatal => true
  | .xferRead _ _ .again => false
  | .xferRead _ _ (.moved _) => false
  | .openDev _ _ => false
  | .getAttr _ _ => false
  | .setAttr _ _ _ => false
  | .close _ _ => false

/-- The bytes handed to the device by one request (R204: the first `k` of the bytes offered). -/
def Event.outbound : Event → List Byte
  | .xferWrite _ bytes (.moved k) => bytes.take k
  | .xferWrite _ _ .again => []
  | .xferWrite _ _ .fatal => []
  | .poll _ _ _ _ => []
  | .xferRead _ _ _ => []
  | .openDev _ _ => []
  | .getAttr _ _ => []
  | .setAttr _ _ _ => []
  | .close _ _ => []

/-- The bytes taken from the inbound stream by one request (R205). -/
def Event.inbound : Event → List Byte
  | .xferRead _ _ (.moved bytes) => bytes
  | .xferRead _ _ .again => []
  | .xferRead _ _ .fatal => []
  | .poll _ _ _ _ => []
  | .xferWrite _ _ _ => []
  | .openDev _ _ => []
  | .getAttr _ _ => []
  | .setAttr _ _ _ => []
  | .close _ _ => []

/-- The event is an `EnvSetAttr`, the only request that changes the device's attributes (R184). -/
def Event.isSetAttr : Event → Bool
  | .setAttr _ _ _ => true
  | .xferRead _ _ _ => false
  | .poll _ _ _ _ => false
  | .xferWrite _ _ _ => false
  | .openDev _ _ => false
  | .getAttr _ _ => false
  | .close _ _ => false

/-- The descriptor a request is made on; `none` for `EnvOpen`, which is made on a device (R11). -/
def Event.descriptor : Event → Option Nat
  | .openDev _ _ => none
  | .getAttr fd _ => some fd
  | .setAttr fd _ _ => some fd
  | .poll _ fd _ _ => some fd
  | .xferWrite fd _ _ => some fd
  | .xferRead fd _ _ => some fd
  | .close fd _ => some fd

/-- The pass of a session's transfer goes on to its `EnvXfer` in `s'`: without a timeout at once, with one after a readiness
check answered `Ready` (R203). -/
def State.readied (dir : Dir) (s s' : State) : Prop :=
  (s.session.timeoutS = 0 ∧ s' = s)
  ∨ (s.session.timeoutS ≠ 0 ∧ (envPoll dir s.session.timeoutS s).1 = .ready
    ∧ s' = { s with env := (envPoll dir s.session.timeoutS s).2.env
                    trace := .poll dir s.fd s.session.timeoutS .ready :: s.trace })

/-- The readiness check of the pass fails for the reason `why` and leaves the unit at `s'` (R203). -/
def State.unready (dir : Dir) (s s' : State) (why : IoErr) : Prop :=
  s.session.timeoutS ≠ 0
  ∧ ∃ a : PollAnswer, (envPoll dir s.session.timeoutS s).1 = a
    ∧ (a = .timedOut ∧ why = .deadlineExceeded ∨ a = .fatal ∧ why = .waitFailed)
    ∧ s' = { s with env := (envPoll dir s.session.timeoutS s).2.env
                    trace := .poll dir s.fd s.session.timeoutS a :: s.trace }

/-- The bytes the session has handed to the outbound stream, first one first (R60, R63; the trace is newest first). -/
def State.outbound (s : State) : List Byte := s.trace.reverse.flatMap Event.outbound

/-- The bytes the session has taken from the inbound stream, first one first (R205; the trace is newest first). -/
def State.inbound (s : State) : List Byte := s.trace.reverse.flatMap Event.inbound

/-- The host code of a command; `none` for a packet (R98). -/
def commandCode : Instr → Option Byte
  | .readGas => some 0
  | .calZero => some 1
  | .calSpan => some 2
  | .readGasReq => none
  | .calZeroReq => none
  | .calSpanReq _ _ => none
  | .readGasResp _ _ _ => none

/-- A resting unit is not BUSY; a running session has not ended (R230, R256, R257). -/
abbrev State.RunningOk (s : State) : Prop :=
  (s.running = false → s.busy = false) ∧ (s.running = true → s.state ≠ .done ∧ s.state ≠ .failed)

/-- `FD_OPEN` is 1 exactly in the states from PortOpened to ResponseReceived (R38, R244, R255). -/
abbrev State.DescriptorOk (s : State) : Prop := s.fdOpen = s.busy

/-- R258: at most one open, and every open is matched by one close, but for the descriptor still held; a session that is
still in `Idle` has opened nothing (R230, R244). -/
abbrev State.ResourceOk (s : State) : Prop :=
  s.opens ≤ 1 ∧ s.closes + (if s.fdOpen then 1 else 0) = s.opens
  ∧ (s.running = true → s.state = .idle → s.opens = 0)

/-- A session started with at least one attempt (R233); in the loop `REMAIN = TRIES - j` after `j` shortfalls, and is not 0
(R236). Outside the loop no shortfall has happened yet. -/
abbrev State.BudgetOk (s : State) : Prop :=
  (s.running = true → s.session.tries ≠ 0)
  ∧ (s.inLoop = true → s.remain ≠ 0 ∧ s.remain.toNat + s.trace.countP Event.isShortfall = s.session.tries.toNat)
  ∧ (s.running = true → s.inLoop = false → s.trace.countP Event.isShortfall = 0)

/-- In the loop `TXBUF` holds the one packet the session's command selects (R73, R247). -/
abbrev State.RequestOk (s : State) : Prop :=
  s.inLoop = true → ∃ p ∈ requestPacket s.session, ∀ off < pktLen, Memory.read? s.txbuf off = p.get? off

/-- While a transfer runs, `MOVED` is below the packet length, and an XFER_READ has written the `MOVED` first bytes of `RXBUF`
(R37, R205). `looping` is a progress of `PortConfigured` only. -/
abbrev State.ProgressOk (s : State) : Prop :=
  s.moved ≤ pktLen
  ∧ (s.progress = .moving → s.moved < pktLen ∧ (s.state = .portConfigured ∨ s.state = .requestSent ∧ s.session.cmd = 0))
  ∧ (s.progress = .looping → s.state = .portConfigured)
  ∧ (s.progress = .moving → s.state = .requestSent →
      ∀ off < s.moved, (Memory.read? s.rxbuf off).isSome = true)

/-- `ResponseReceived` is entered by READ_GAS only, and then every byte of `RXBUF` has been written (R252). -/
abbrev State.ResponseOk (s : State) : Prop :=
  s.state = .responseReceived → s.session.cmd = 0 ∧ Memory.full s.rxbuf = true

/-- Both packet buffers keep the canonical form. -/
abbrev State.BuffersOk (s : State) : Prop := Memory.wf s.txbuf ∧ Memory.wf s.rxbuf

/-- The invariant of the machine: what holds at reset and every step keeps. -/
structure State.Inv (s : State) : Prop where
  running : s.RunningOk
  descriptor : s.DescriptorOk
  resource : s.ResourceOk
  budget : s.BudgetOk
  request : s.RequestOk
  progress : s.ProgressOk
  response : s.ResponseOk
  buffers : s.BuffersOk

/-- The ghost counters count what the trace records (R40): opens answered `Ok`, closes. -/
abbrev State.TraceCounts (s : State) : Prop :=
  s.trace.countP Event.isOpened = s.opens ∧ s.trace.countP Event.isClose = s.closes

/-- R286: before `PortConfigured`, and in a session that ended in ConfigError, no `EnvPoll` and no `EnvXfer` was issued; a
running session has no reason yet (R230). -/
abbrev State.ConfigBeforeTransfer (s : State) : Prop :=
  (s.running = true → s.reason = .none)
  ∧ (s.running = true → s.state = .idle ∨ s.state = .portOpened → s.trace.all (fun e => !e.isTransfer) = true)
  ∧ (s.reason = .configError → s.trace.all (fun e => !e.isTransfer) = true)

/-- The buffer holds the nine bytes of the packet (R61). -/
abbrev Memory.holds (m : Memory) (p : Packet) : Prop := ∀ off < pktLen, Memory.read? m off = p.get? off

/-- The sum of the payload bytes as a natural number, `S` of R153. -/
def Packet.payloadSum (p : Packet) : Nat :=
  p.b1.toNat + p.b2.toNat + p.b3.toNat + p.b4.toNat + p.b5.toNat + p.b6.toNat + p.b7.toNat

/-- The flags word of `ATTR` a layout names (R130, `word(m)`). -/
def wordOf {W : Nat} (w : FlagWordName) (a : Attr W) : BitVec W :=
  match w with
  | .cflag => a.cflag
  | .lflag => a.lflag

/-- The machine stopped with a fault. -/
def isFault {σ : Type} (o : Host.Outcome σ Fault Refusal) : Bool :=
  match o with
  | .next _ => false
  | .fault _ => true
  | .refused _ => false

end Sys2Proof.Machine
end

