-- ==== Sys2Proof/Certificates/Slice0/Obligations.lean ====
section
/-! DEFINITION. The statements for the provers. Each docstring names the rule of spec/ a statement formalises; a statement that
rests on a choice of the model names the log entry. -/

open Sys2Proof Sys2Proof.Machine Sys2Proof.Config

/-! ### Encoding -/

/-- Decode and encode agree: every well-formed instruction is read back from its own bytes (30_encoding.md R91 to R93, R98).
The one-byte command codes are the spec's decision D3 (log 26); what is well formed in a CAL_SPAN_REQ is log 10. -/
def Obligations.DecodeOfEncode : Prop :=
  ∀ i : Instr, i.wellFormed = true → decode (encode i) = .ok i

/-- Every sequence of bytes has at most one reading: bytes that decode are the encoding of what they decode to. The one-byte
command codes are the spec's decision D3 (log 26). -/
def Obligations.EncodeOfDecoded : Prop :=
  ∀ (bytes : List Byte) (i : Instr), decode bytes = .ok i → encode i = bytes

/-- Words written out from the spec's encodings decode to the instructions they stand for (R91, R92, R93, R98); of the command
codes, 0, 1 and 2 are instructions and no other is (R101). The command codes are the spec's decision D3 (log 26). -/
def Obligations.SpecWordsDecode : Prop :=
  decode [0xFF, 0x01, 0x86, 0, 0, 0, 0, 0, 0x79] = .ok .readGasReq
  ∧ decode [0xFF, 0x01, 0x87, 0, 0, 0, 0, 0, 0x78] = .ok .calZeroReq
  ∧ decode [0xFF, 0x01, 0x88, 0x07, 0xD0, 0, 0, 0, 0xA0] = .ok (.calSpanReq 0x07D0 0xA0)
  ∧ decode [0xFF, 0x86, 0x02, 0x60, 0x47, 0, 0, 0, 0xD1] = .ok (.readGasResp 0x0260 0x47000000 0xD1)
  ∧ decode [0x00] = .ok .readGas ∧ decode [0x01] = .ok .calZero ∧ decode [0x02] = .ok .calSpan
  ∧ ∀ c : Byte, (∃ i, decode [c] = .ok i) ↔ c = 0 ∨ c = 1 ∨ c = 2

/-! ### BaudTable and LineEncoding -/

/-- R122: LOOKUP_BAUD gives the matching code for every rate of the fixed set, and fails for any other. The rate is the 32-bit
`BAUD` operand. -/
def Obligations.LookupBaudExactlyTheTable : Prop :=
  ∀ rate : Word, (rate ∈ baudSet → lookupBaud rate = some (speedCode rate)) ∧ (rate ∉ baudSet → lookupBaud rate = none)

/-- Whatever the platform's constants are, distinct rates of the table have distinct speed codes (R120, D12; log 13) and the
machine's layout meets every constraint of R130 (log 11). That they do is a choice of the model: the free constants are
guarded (log 11, log 13). -/
def Obligations.PlatformConstantsAdmissible : Prop :=
  (∀ a ∈ baudSet, ∀ b ∈ baudSet, speedCode a = speedCode b → a = b) ∧ FlagLayout.Ok layout

/-- R132, for flags words of any width and any admissible layout: 5 to 8 data bits replace the character-size sub-field by
their pattern and touch nothing else; every other count fails. -/
def Obligations.DataBitsReplaceCharacterSize : Prop :=
  ∀ (W : Nat) (L : FlagLayout W), FlagLayout.Ok L → ∀ (n : Byte) (flags : BitVec W),
    (∀ p, (n = 5 ∧ p = L.cs5 ∨ n = 6 ∧ p = L.cs6 ∨ n = 7 ∧ p = L.cs7 ∨ n = 8 ∧ p = L.cs8) →
      ∃ out, applyDataBits L n flags = some out ∧ out = flags &&& ~~~L.csizeMask ||| p
        ∧ out &&& ~~~L.csizeMask = flags &&& ~~~L.csizeMask ∧ out &&& L.csizeMask = p)
    ∧ (n ≠ 5 → n ≠ 6 → n ≠ 7 → n ≠ 8 → applyDataBits L n flags = none)

/-- R133: the parity letters, in either case, replace the two parity bits and touch nothing else; 'S' gives what 'N' gives;
every other code fails. That the two bits are replaced, and not only set, is the spec's decision D19 (log 26); the letters'
code points are log 24. -/
def Obligations.ParityReplacesParityBits : Prop :=
  ∀ (W : Nat) (L : FlagLayout W), FlagLayout.Ok L → ∀ (c : Byte) (flags : BitVec W),
    (∀ p, (c ∈ [0x4E#8, 0x6E#8, 0x53#8, 0x73#8] ∧ p = 0 ∨ c ∈ [0x45#8, 0x65#8] ∧ p = L.parEnable
            ∨ c ∈ [0x4F#8, 0x6F#8] ∧ p = L.parEnable ||| L.parOdd) →
      ∃ out, applyParity L c flags = some out ∧ out = flags &&& ~~~(L.parEnable ||| L.parOdd) ||| p
        ∧ out &&& ~~~(L.parEnable ||| L.parOdd) = flags &&& ~~~(L.parEnable ||| L.parOdd)
        ∧ out &&& (L.parEnable ||| L.parOdd) = p)
    ∧ (c ∉ [0x4E#8, 0x6E#8, 0x53#8, 0x73#8, 0x45#8, 0x65#8, 0x4F#8, 0x6F#8] → applyParity L c flags = none)

/-- R134: 10 clears the two-stop-bits flag, 20 sets it, no other bit changes; every other value fails. -/
def Obligations.StopBitsSetOneFlag : Prop :=
  ∀ (W : Nat) (L : FlagLayout W), FlagLayout.Ok L → ∀ (n : Byte) (flags : BitVec W),
    (n = 10 → ∃ out, applyStopBits L n flags = some out ∧ out &&& L.stop2 = 0
        ∧ out &&& ~~~L.stop2 = flags &&& ~~~L.stop2)
    ∧ (n = 20 → ∃ out, applyStopBits L n flags = some out ∧ out &&& L.stop2 = L.stop2
        ∧ out &&& ~~~L.stop2 = flags &&& ~~~L.stop2)
    ∧ (n ≠ 10 → n ≠ 20 → applyStopBits L n flags = none)

/-- R131, R135: under an admissible layout the three transforms commute pairwise, and applying one twice is applying it once.
The spec marks this sentence of R131 as an inference of its own. -/
def Obligations.LineEncodingsCommute : Prop :=
  ∀ (W : Nat) (L : FlagLayout W), FlagLayout.Ok L → ∀ (n c m : Byte) (flags : BitVec W),
    (applyDataBits L n flags).bind (applyParity L c) = (applyParity L c flags).bind (applyDataBits L n)
    ∧ (applyDataBits L n flags).bind (applyStopBits L m) = (applyStopBits L m flags).bind (applyDataBits L n)
    ∧ (applyParity L c flags).bind (applyStopBits L m) = (applyStopBits L m flags).bind (applyParity L c)
    ∧ (applyDataBits L n flags).bind (applyDataBits L n) = applyDataBits L n flags
    ∧ (applyParity L c flags).bind (applyParity L c) = applyParity L c flags
    ∧ (applyStopBits L m flags).bind (applyStopBits L m) = applyStopBits L m flags

/-! ### PacketCodec -/

/-- R153's closed form: the checksum of a present packet is `(256 - (S mod 256)) mod 256`, the one byte `c` with `(S + c) mod
256 = 0`. The spec marks the equality as an inference of its own (R153). -/
def Obligations.ChecksumClosedForm : Prop :=
  ∀ p : Packet,
    (checksum (some p)).toNat = (256 - Packet.payloadSum p % 256) % 256
    ∧ ∀ c : Byte, (Packet.payloadSum p + c.toNat) % 256 = 0 ↔ c = checksum (some p)

/-- R154 (a), (b): a packet's checksum byte is right exactly when offsets 1 to 8 sum to 0 modulo 256, and changing one byte of
offsets 1 to 8 of a right one makes it wrong. The spec marks R154 as an inference of its own. -/
def Obligations.ChecksumDetectsOneByte : Prop :=
  (∀ p : Packet, p.b8 = checksum (some p) ↔ (Packet.payloadSum p + p.b8.toNat) % 256 = 0)
  ∧ ∀ (p : Packet) (off : Nat) (v : Byte), p.b8 = checksum (some p) → 1 ≤ off → off ≤ 8 → p.get? off ≠ some v →
      (p.set off v).b8 ≠ checksum (some (p.set off v))

/-- R152, the absent packet, and R158: every packet a BUILD operation returns carries its own checksum; R155 to R157: those
packets, byte by byte. The spec marks R158 as an inference of its own. -/
def Obligations.BuiltPackets : Prop :=
  checksum none = 0xFF
  ∧ buildReadGas = ⟨0xFF, 0x01, 0x86, 0, 0, 0, 0, 0, 0x79⟩ ∧ buildReadGas.b8 = checksum (some buildReadGas)
  ∧ buildCalZero = ⟨0xFF, 0x01, 0x87, 0, 0, 0, 0, 0, 0x78⟩ ∧ buildCalZero.b8 = checksum (some buildCalZero)
  ∧ ∀ span : Half, (buildCalSpan span).b8 = checksum (some (buildCalSpan span)) ∧ buildCalSpan span =
      ⟨0xFF, 0x01, 0x88, span.extractLsb' 8 8, span.extractLsb' 0 8, 0, 0, 0, checksum (some (buildCalSpan span))⟩

/-- R160: the three checks in order, the first failing one is the result; otherwise the big-endian concentration. The names of
the three tags are the spec's decision D5 (log 26). -/
def Obligations.ParseGasChecksInOrder : Prop :=
  ∀ p : Packet,
    (p.b0 ≠ 0xFF → parseGas p = .invalid .badStart)
    ∧ (p.b0 = 0xFF → p.b1 ≠ 0x86 → parseGas p = .invalid .badCommand)
    ∧ (p.b0 = 0xFF → p.b1 = 0x86 → p.b8 ≠ checksum (some p) → parseGas p = .invalid .badChecksum)
    ∧ (p.b0 = 0xFF → p.b1 = 0x86 → p.b8 = checksum (some p) →
        ∃ c, parseGas p = .ok c ∧ c.toNat = p.b2.toNat * 256 + p.b3.toNat)

/-- R161: changing one byte of a valid response makes it invalid, with the tag its offset fixes. The spec marks the tags of
R161 as an inference of its own. -/
def Obligations.OneByteMutationInvalid : Prop :=
  ∀ (p : Packet) (c : Half) (off : Nat) (v : Byte), parseGas p = .ok c → off < 9 → p.get? off ≠ some v →
    parseGas (p.set off v) =
      .invalid (if off = 0 then .badStart else if off = 1 then .badCommand else .badChecksum)

/-- R99: whatever the six bytes at offsets 2 to 7 are, exactly one packet with them is valid. The spec marks this count as an
inference of its own (R99). -/
def Obligations.OneValidPacketPerContent : Prop :=
  ∀ b2 b3 b4 b5 b6 b7 : Byte, ∃! p : Packet,
    p.b2 = b2 ∧ p.b3 = b3 ∧ p.b4 = b4 ∧ p.b5 = b5 ∧ p.b6 = b6 ∧ p.b7 = b7 ∧ ∃ c, parseGas p = .ok c

/-! ### PortConfigurator -/

/-- R182 step 2, R183: with a supported rate and nothing requested CONFIGURE answers NoOp and does nothing; with an
unsupported rate it fails at step 1, whatever else is asked, and does nothing. The direction codes are the spec's decision D4
(log 26). -/
def Obligations.ConfigureWithoutRequests : Prop :=
  ∀ (fd : Nat) (baud : Word) (s : State),
    (baud ∈ baudSet → configure fd baud 0 0 0 0 s = (.noOp, s))
    ∧ ∀ dir dataBits parity stopBits : Byte, baud ∉ baudSet →
        configure fd baud dir dataBits parity stopBits s = (.failed (.unsupportedBaudRate baud), s)

/-- R182: with a supported rate, something requested, the attributes read and every operand good, CONFIGURE sets the requested
speeds, applies the requested line encodings to the control flags, forces raw mode, and writes the result back; its answer is
the environment's. Nothing else of the machine changes. The direction codes are the spec's decision D4 (log 26); `env` and
`trace` are the model's own (log 4, log 21). -/
def Obligations.ConfigureWritesAttributes : Prop :=
  ∀ (fd : Nat) (baud : Word) (dir dataBits parity stopBits : Byte) (s : State) (a : DeviceAttr) (c5 c6 c7 : FlagWord),
    baud ∈ baudSet → dir.toNat ≤ 3 → ¬(dir = 0 ∧ dataBits = 0 ∧ parity = 0 ∧ stopBits = 0) →
    (envGetAttr fd s).1 = .ok a →
    (if dataBits = 0 then some a.cflag else applyDataBits layout dataBits a.cflag) = some c5 →
    (if parity = 0 then some c5 else applyParity layout parity c5) = some c6 →
    (if stopBits = 0 then some c6 else applyStopBits layout stopBits c6) = some c7 →
    ∀ (out : DeviceAttr) (s' : State),
      out = rawMode layout { a with cflag := c7
                                    ispeed := if dir = 1 ∨ dir = 3 then speedCode baud else a.ispeed
                                    ospeed := if dir = 2 ∨ dir = 3 then speedCode baud else a.ospeed } →
      s' = (envGetAttr fd s).2 →
      configure fd baud dir dataBits parity stopBits s =
        (if (envSetAttr fd out s').1 = .ok then .success else .failed .setAttrFailed,
          { s with attr := out, env := (envSetAttr fd out s').2.env
                   trace := .setAttr fd out (envSetAttr fd out s').1 :: .getAttr fd (.ok a) :: s.trace })

/-- R187: raw mode sets IGN_MODEM and RX_ENABLE and clears CANON, ECHO and SIGNALS, each in its word, under an admissible
layout; the two flag words change in those five flags only; no other field changes. That the five flags lie in the control or
the local flags is log 25. -/
def Obligations.RawModeTouchesFiveFlags : Prop :=
  ∀ (W : Nat) (L : FlagLayout W) (a : Attr W), FlagLayout.Ok L →
    wordOf L.ignModemWord (rawMode L a) &&& L.ignModem = L.ignModem
    ∧ wordOf L.rxEnableWord (rawMode L a) &&& L.rxEnable = L.rxEnable
    ∧ wordOf L.canonWord (rawMode L a) &&& L.canon = 0
    ∧ wordOf L.echoWord (rawMode L a) &&& L.echo = 0
    ∧ wordOf L.signalsWord (rawMode L a) &&& L.signals = 0
    ∧ (∀ (w : FlagWordName) (bit : BitVec W),
        (L.ignModemWord = w → bit &&& L.ignModem = 0) → (L.rxEnableWord = w → bit &&& L.rxEnable = 0) →
        (L.canonWord = w → bit &&& L.canon = 0) → (L.echoWord = w → bit &&& L.echo = 0) →
        (L.signalsWord = w → bit &&& L.signals = 0) →
        wordOf w (rawMode L a) &&& bit = wordOf w a &&& bit)
    ∧ rawMode L a = { a with cflag := (rawMode L a).cflag, lflag := (rawMode L a).lflag }

/-- R184: a failure of CONFIGURE other than SetAttrFailed makes no EnvSetAttr, so the device's attributes are what they were.
R182 step 3: when the attributes cannot be read the failure is GetAttrFailed, and `ATTR` is what it was as well. The spec
marks R184 as an inference of its own, the name GetAttrFailed is its decision D5 (log 26); `env` and `trace` are the model's
own (log 4, log 21). -/
def Obligations.ConfigureFailureLeavesDevice : Prop :=
  ∀ (fd : Nat) (baud : Word) (dir dataBits parity stopBits : Byte) (s : State),
    (∀ (s' : State) (why : ConfigFailure),
      configure fd baud dir dataBits parity stopBits s = (.failed why, s') → why ≠ .setAttrFailed →
      ∃ evs, s'.trace = evs ++ s.trace ∧ ∀ e ∈ evs, e.isSetAttr = false)
    ∧ (baud ∈ baudSet → ¬(dir = 0 ∧ dataBits = 0 ∧ parity = 0 ∧ stopBits = 0) → (envGetAttr fd s).1 = .fail →
      configure fd baud dir dataBits parity stopBits s = (.failed .getAttrFailed,
        { s with env := (envGetAttr fd s).2.env, trace := .getAttr fd .fail :: s.trace }))

/-- R185, R293: once the attributes are read, the failure CONFIGURE reports is that of the lowest-numbered bad step:
direction, then data bits, then parity, then stop bits. The direction codes are the spec's decision D4 (log 26); the character
codes of the parity clauses are log 24 (PRESUMED, unsafe); the spec marks R185 as an inference of its own. -/
def Obligations.ConfigureReportsFirstBadStep : Prop :=
  ∀ (fd : Nat) (baud : Word) (dir dataBits parity stopBits : Byte) (s : State) (a : DeviceAttr),
    baud ∈ baudSet → (envGetAttr fd s).1 = .ok a → ¬(dir = 0 ∧ dataBits = 0 ∧ parity = 0 ∧ stopBits = 0) →
    (3 < dir.toNat →
      (configure fd baud dir dataBits parity stopBits s).1 = .failed (.unsupportedDirection dir))
    ∧ (dir.toNat ≤ 3 → dataBits ≠ 0 → dataBits ∉ [5#8, 6#8, 7#8, 8#8] →
      (configure fd baud dir dataBits parity stopBits s).1 = .failed (.unsupportedDataBits dataBits))
    ∧ (dir.toNat ≤ 3 → dataBits ∈ [0#8, 5#8, 6#8, 7#8, 8#8] →
        parity ∉ [0x00#8, 0x4E#8, 0x6E#8, 0x53#8, 0x73#8, 0x45#8, 0x65#8, 0x4F#8, 0x6F#8] →
      (configure fd baud dir dataBits parity stopBits s).1 = .failed (.unsupportedParity parity))
    ∧ (dir.toNat ≤ 3 → dataBits ∈ [0#8, 5#8, 6#8, 7#8, 8#8] →
        parity ∈ [0x00#8, 0x4E#8, 0x6E#8, 0x53#8, 0x73#8, 0x45#8, 0x65#8, 0x4F#8, 0x6F#8] →
        stopBits ∉ [0#8, 10#8, 20#8] →
      (configure fd baud dir dataBits parity stopBits s).1 = .failed (.unsupportedStopBits stopBits))

/-! ### ReliableIO -/

/-- R210: for any number of passes, PERFORM_TRANSFER is still going on, or has moved the full length, or has failed with the
count moved, which is below the length; it never returns a short count. That a failure carries the count is the spec's
decision D18 (log 26). -/
def Obligations.TransferNeverShort : Prop :=
  ∀ (fuel : Nat) (dir : Dir) (length : Nat) (timeout : Word) (s s' : State) (status : XferStatus),
    performTransfer fuel dir length timeout s = .next (status, s') →
    (status = .continuing ∧ s'.moved ≤ length)
    ∨ (status = .full length ∧ s'.moved = length)
    ∨ ∃ why, status = .failed why s'.moved ∧ s'.moved < length ∧ why ≠ .none

/-- R207, R211: a pass answered `Again`, or `Moved(0)`, goes on with everything as it was but the request made; neither
`MOVED` nor `REMAIN` nor a buffer changes. Going on after `Moved(0)` is the spec's decision D8 (log 26); `env` and `trace` are
the model's own (log 4, log 21). -/
def Obligations.AgainConsumesNothing : Prop :=
  ∀ (length : Nat) (s : State) (bytes : List Byte), s.moved < length →
    (memRead s.txbuf s.moved (length - s.moved) = .next bytes →
      ((envWrite bytes s).1 = .again ∨ (envWrite bytes s).1 = .moved 0) →
      transferPass .write length 0 s = .next (.continuing,
        { s with env := (envWrite bytes s).2.env, trace := .xferWrite s.fd bytes (envWrite bytes s).1 :: s.trace }))
    ∧ (((envRead (length - s.moved) s).1 = .again ∨ (envRead (length - s.moved) s).1 = .moved []) → length ≤ 9 →
      transferPass .read length 0 s = .next (.continuing,
        { s with env := (envRead (length - s.moved) s).2.env
                 trace := .xferRead s.fd (length - s.moved) (envRead (length - s.moved) s).1 :: s.trace }))

/-- R203, R208: with a timeout every pass begins with its readiness check: answered `TimedOut` or `Fatal`, the pass fails with
DeadlineExceeded or WaitFailed and makes no transfer; answered `Ready`, it goes on as a pass without a timeout. The name
WaitFailed is the spec's decision D5 (log 26); `env` and `trace` are the model's own (log 4, log 21). -/
def Obligations.ReadinessCheckDecidesPass : Prop :=
  ∀ (dir : Dir) (length : Nat) (timeout : Word) (s : State), dir ≠ .other → timeout ≠ 0 → s.moved < length →
    ((envPoll dir timeout s).1 = .timedOut → transferPass dir length timeout s =
      .next (.failed .deadlineExceeded s.moved,
        { s with env := (envPoll dir timeout s).2.env, trace := .poll dir s.fd timeout .timedOut :: s.trace }))
    ∧ ((envPoll dir timeout s).1 = .fatal → transferPass dir length timeout s =
      .next (.failed .waitFailed s.moved,
        { s with env := (envPoll dir timeout s).2.env, trace := .poll dir s.fd timeout .fatal :: s.trace }))
    ∧ ((envPoll dir timeout s).1 = .ready → transferPass dir length timeout s =
      transferPass dir length 0
        { s with env := (envPoll dir timeout s).2.env, trace := .poll dir s.fd timeout .ready :: s.trace })

/-- R209, R213: a timeout for a direction neither Read nor Write is UnsupportedOperation before any request; without a timeout
it is refused; a transfer of nothing is full at once, whatever the direction and the timeout. The refusal without a timeout is
the spec's decision D20 (log 18); R213 is marked an inference of the spec's own. -/
def Obligations.TransferEdgeOperands : Prop :=
  ∀ (fuel length : Nat) (dir : Dir) (timeout : Word) (s : State),
    (0 < length → timeout ≠ 0 → performTransfer (fuel + 1) .other length timeout s =
      .next (.failed .unsupportedOperation 0, { s with moved := 0 }))
    ∧ (0 < length → performTransfer (fuel + 1) .other length 0 s = .refused .otherDirectionWithoutTimeout)
    ∧ performTransfer (fuel + 1) dir 0 timeout s = .next (.full 0, { s with moved := 0 })

/-- R204: when XFER_WRITE has moved the full length, the bytes handed to the device, in order, are exactly the nine bytes of
`TXBUF`, however the environment split them; `TXBUF` is as it was. The bytes are read off the model's `trace` (log 21). -/
def Obligations.FullWriteDeliversPacket : Prop :=
  ∀ (fuel : Nat) (timeout : Word) (s s' : State) (p : Packet), Memory.holds s.txbuf p →
    performTransfer fuel .write 9 timeout s = .next (.full 9, s') →
    s'.outbound = s.outbound ++ p.toList ∧ s'.inbound = s.inbound ∧ s'.txbuf = s.txbuf ∧ s'.rxbuf = s.rxbuf

/-- R205: when XFER_READ has moved the full length, `RXBUF` holds exactly the nine bytes taken from the inbound stream, in
arrival order from offset 0, however the environment split them; nothing was handed out. The bytes are read off the model's
`trace` (log 21). -/
def Obligations.FullReadFillsBuffer : Prop :=
  ∀ (fuel : Nat) (timeout : Word) (s s' : State), performTransfer fuel .read 9 timeout s = .next (.full 9, s') →
    ∃ p : Packet, Memory.holds s'.rxbuf p ∧ s'.inbound = s.inbound ++ p.toList
      ∧ s'.outbound = s.outbound ∧ s'.txbuf = s.txbuf

/-! ### The instructions -/

/-- R155, R156, R247: READ_GAS_REQ and CAL_ZERO_REQ put their nine bytes into `TXBUF` and load `REMAIN` from the session's
`TRIES`; nothing else changes. `progress` is the model's own (log 7), and running a packet row as an instruction is log 8. -/
def Obligations.FixedRequestsBuilt : Prop :=
  ∀ (i : Instr) (p : Packet) (s : State),
    (i = .readGasReq ∧ p = ⟨0xFF, 0x01, 0x86, 0, 0, 0, 0, 0, 0x79⟩
      ∨ i = .calZeroReq ∧ p = ⟨0xFF, 0x01, 0x87, 0, 0, 0, 0, 0, 0x78⟩) →
    ∃ tx : Memory,
      exec i s = .next { s with txbuf := tx, remain := s.session.tries, progress := .looping }
      ∧ Memory.holds tx p
      ∧ (∀ off, 9 ≤ off → Memory.read? tx off = Memory.read? s.txbuf off) ∧ (Memory.wf s.txbuf → Memory.wf tx)

/-- R157, R94, R92, R247: CAL_SPAN_REQ puts the span big-endian at offsets 3 and 4, three zero bytes, and the checksum R92
gives; for a well-formed instruction those are its own nine bytes. The closed form of the checksum is an inference of the
spec's own (R92); the checksum operand is log 10, `progress` log 7, a packet row as an instruction log 8. -/
def Obligations.CalSpanRequestBuilt : Prop :=
  ∀ (span : Half) (ck : Byte) (s : State), ∃ tx : Memory,
    exec (.calSpanReq span ck) s = .next { s with txbuf := tx, remain := s.session.tries, progress := .looping }
    ∧ (∀ sum : Nat, sum = 0x89 + (span.extractLsb' 8 8).toNat + (span.extractLsb' 0 8).toNat →
        Memory.holds tx ⟨0xFF, 0x01, 0x88, span.extractLsb' 8 8, span.extractLsb' 0 8, 0, 0, 0,
          BitVec.ofNat 8 (256 - sum % 256)⟩)
    ∧ ((Instr.calSpanReq span ck).wellFormed = true →
        ∀ off < 9, Memory.read? tx off = (encode (.calSpanReq span ck))[off]?)
    ∧ (∀ off, 9 ≤ off → Memory.read? tx off = Memory.read? s.txbuf off) ∧ (Memory.wf s.txbuf → Memory.wf tx)

/-- R254, R160: READ_GAS_RESP with the right checksum writes its concentration into `CONC`, closes the descriptor once and
ends the session in Done, or, when the close fails, in Failed(CloseError) with `CONC` written (R255, D13). Nothing else
changes. That `CONC` is written before the close, and CloseError, are the spec's decisions D13 and D10 (log 26); that a packet
row is an instruction with this meaning wherever a descriptor is held, and not only in ResponseReceived, is log 8. `running`,
`progress`, `env` and `trace` are fields of the model's own (log 4, log 7, log 21). -/
def Obligations.ValidResponseEndsSession : Prop :=
  ∀ (conc : Half) (reserved : BitVec 32) (ck : Byte) (s : State), s.fdOpen = true →
    ck = checksum (some ⟨0xFF, 0x86, conc.extractLsb' 8 8, conc.extractLsb' 0 8, reserved.extractLsb' 24 8,
      reserved.extractLsb' 16 8, reserved.extractLsb' 8 8, reserved.extractLsb' 0 8, ck⟩) →
    exec (.readGasResp conc reserved ck) s = .next
      { s with
        conc := conc
        state := if (envClose s).1 = .fail then .failed else .done
        reason := if (envClose s).1 = .fail then .closeError else .none
        fdOpen := false
        closes := s.closes + 1
        running := false
        progress := .ready
        env := (envClose s).2.env
        trace := .close s.fd (envClose s).1 :: s.trace }

/-- R254, R160, R237: READ_GAS_RESP with a wrong checksum records BadChecksum, closes the descriptor once, whatever the close
answers, and ends the session in Failed(ProtocolError); `CONC` and `REMAIN` and everything else are unchanged. The tag, and
that ProtocolError stands whatever the close answers, are the spec's decisions D5 and D10 (log 26); that a packet row is an
instruction with this meaning wherever a descriptor is held is log 8. `running`, `progress`, `env` and `trace` are fields of
the model's own (log 4, log 7, log 21). -/
def Obligations.BadChecksumEndsSession : Prop :=
  ∀ (conc : Half) (reserved : BitVec 32) (ck : Byte) (s : State), s.fdOpen = true →
    ck ≠ checksum (some ⟨0xFF, 0x86, conc.extractLsb' 8 8, conc.extractLsb' 0 8, reserved.extractLsb' 24 8,
      reserved.extractLsb' 16 8, reserved.extractLsb' 8 8, reserved.extractLsb' 0 8, ck⟩) →
    exec (.readGasResp conc reserved ck) s = .next
      { s with
        protoerr := .badChecksum
        state := .failed
        reason := .protocolError
        fdOpen := false
        closes := s.closes + 1
        running := false
        progress := .ready
        env := (envClose s).2.env
        trace := .close s.fd (envClose s).1 :: s.trace }

/-- R230: a host command started while no session runs and the unit is not BUSY, with at least one attempt allowed, samples
the ten registers, clears the failure registers and the ghost counters and enters Idle; `CONC`, the buffers and everything
else keep what they held. The host commands are readGas, calZero and calSpan (log 26 for their codes). Sampling the registers
and clearing the failure registers are the spec's decisions D15 and D21 (log 15, log 26). `running`, `progress`, `env` and
`trace` are fields of the model's own (log 4, log 7, log 21). -/
def Obligations.CommandStartsSession : Prop :=
  ∀ (i : Instr) (c : Byte) (s : State), commandCode i = some c → s.running = false →
    (s.state = .idle ∨ s.state = .done ∨ s.state = .failed) → s.cfg.tries ≠ 0 →
    exec i s = .next
      { s with
        session := { s.cfg with cmd := c }
        state := .idle
        reason := .none
        cfgerr := .none
        protoerr := .none
        ioerr := .none
        opens := 0
        closes := 0
        running := true
        progress := .ready
        trace := [] }

/-- R233 and R230: a start with `TRIES = 0` is refused, and a start while BUSY is refused. The host commands are readGas,
calZero and calSpan (log 26 for their codes). Both refusals are the spec's decisions D7 and D30 (log 16, log 17). -/
def Obligations.StartRefused : Prop :=
  ∀ (i : Instr) (c : Byte) (s : State), commandCode i = some c → s.running = false →
    ((s.state = .idle ∨ s.state = .done ∨ s.state = .failed) → s.cfg.tries = 0 → exec i s = .refused .triesZero)
    ∧ ((s.state = .portOpened ∨ s.state = .portConfigured ∨ s.state = .requestSent ∨ s.state = .responseReceived) →
        exec i s = .refused .hostActionWhileBusy)

/-- R244: in Idle a running command opens the device: on `Ok` the descriptor is held and PortOpened entered; on `Fail` the
session ends in Failed(OpenError) with no close. The host commands are readGas, calZero and calSpan (log 26 for their codes).
`running`, `progress`, `env` and `trace` are fields of the model's own (log 4, log 7, log 21). -/
def Obligations.CommandOpensDevice : Prop :=
  ∀ (i : Instr) (c : Byte) (s : State), commandCode i = some c → s.running = true → s.state = .idle →
    (∀ fd, (envOpen s).1 = .ok fd → exec i s = .next
      { s with fd := fd, fdOpen := true, opens := 1, state := .portOpened, progress := .ready
               env := (envOpen s).2.env
               trace := .openDev s.session.dev (.ok fd) :: s.trace })
    ∧ ((envOpen s).1 = .fail → s.fdOpen = false → exec i s = .next
      { s with reason := .openError, state := .failed, running := false, progress := .ready
               env := (envOpen s).2.env
               trace := .openDev s.session.dev .fail :: s.trace })

/-- R245, R231: in PortOpened a running command runs CONFIGURE with the sampled registers and direction Both: on success
PortConfigured is entered; on a failure `CFGERR` records it, the descriptor is closed once, and the session ends in
Failed(ConfigError), whatever the close answers. The host commands are readGas, calZero and calSpan (log 26 for their codes).
That ConfigError stands whatever the close answers is the spec's decision D10 (log 26). `running`, `progress`, `env` and
`trace` are fields of the model's own (log 4, log 7, log 21). -/
def Obligations.CommandConfiguresPort : Prop :=
  ∀ (i : Instr) (c : Byte) (s s' : State) (r : ConfigResult), commandCode i = some c → s.running = true →
    s.state = .portOpened → s.fdOpen = true →
    configure s.fd s.session.baud 3 s.session.dataBits s.session.parity s.session.stopBits s = (r, s') →
    (r = .success → exec i s = .next { s' with state := .portConfigured, progress := .ready })
    ∧ (∀ why, r = .failed why → exec i s = .next
        { s' with cfgerr := why.toCfgErr, reason := .configError, state := .failed, fdOpen := false
                  closes := s.closes + 1, running := false, progress := .ready, env := (envClose s').2.env
                  trace := .close s.fd (envClose s').1 :: s'.trace })

/-- R247, R239: on first entry to PortConfigured a running command does what its request packet does. That the request packets
are instructions of their own is log 8. -/
def Obligations.CommandSelectsRequest : Prop :=
  ∀ s : State, s.running = true → s.state = .portConfigured → s.progress = .ready →
    exec .readGas s = exec .readGasReq s ∧ exec .calZero s = exec .calZeroReq s
    ∧ ∀ ck, exec .calSpan s = exec (.calSpanReq s.session.span ck) s

/-- R246, R243: on first entry to PortConfigured a command other than 0, 1, 2 closes the descriptor once and ends the session
in Failed(UnsupportedCommand), whatever the close answers; `TXBUF` is not written and nothing is transferred. That the reason
stands whatever the close answers is the spec's decision D10, and the codes 0, 1 and 2 are D3 (log 26). `running`, `progress`,
`env` and `trace` are fields of the model's own (log 4, log 7, log 21). -/
def Obligations.UnrecognisedCommandFails : Prop :=
  ∀ s : State, s.running = true → s.state = .portConfigured → s.progress = .ready → s.fdOpen = true →
    2 < s.session.cmd.toNat →
    step s = .next
      { s with reason := .unsupportedCommand, state := .failed, fdOpen := false, closes := s.closes + 1
               running := false, progress := .ready, env := (envClose s).2.env
               trace := .close s.fd (envClose s).1 :: s.trace }

/-- R203, R204, R207, R211, R248: a pass of a command's XFER_WRITE in PortConfigured, the request in `TXBUF`, with no timeout
or after a readiness check answered `Ready`: `MOVED` rises by the `k` bytes the environment takes, by nothing on `Again`;
RequestSent is entered when all nine have moved. The host commands are readGas, calZero and calSpan (log 26 for their codes).
Going on after `Moved(0)` is the spec's decision D8 (log 26). `running`, `progress`, `env` and `trace` are fields of the
model's own (log 4, log 7, log 21). -/
def Obligations.CommandWritePass : Prop :=
  ∀ (i : Instr) (c : Byte) (s s1 : State) (p : Packet) (a : WriteAnswer) (k m : Nat), commandCode i = some c →
    s.running = true → s.state = .portConfigured →
    (s.progress = .looping ∧ m = 0 ∨ s.progress = .moving ∧ m = s.moved) → m < 9 →
    Memory.holds s.txbuf p → s.readied .write s1 →
    (envWrite (p.toList.drop m) s1).1 = a → (a = .moved k ∨ a = .again ∧ k = 0) →
    exec i s = .next
      { s with
        moved := m + k
        state := if m + k = 9 then .requestSent else .portConfigured
        progress := if m + k = 9 then .ready else .moving
        env := (envWrite (p.toList.drop m) s1).2.env
        trace := .xferWrite s.fd (p.toList.drop m) a :: s1.trace }

/-- R249, R234, R235, R236: a pass of a command's XFER_WRITE, the first one or a later one, that a failed readiness check or a
`Fatal` answer ends is a shortfall: `IOERR` records it, `REMAIN` falls by one; with budget left the attempt starts again; with
none the descriptor is closed once and the session ends in Failed(WriteError), whatever the close answers. The host commands
are readGas, calZero and calSpan (log 26 for their codes). That every failure is a retried shortfall, that the reason is that
of the last one, and that it stands whatever the close answers are the spec's decisions D17, D9 and D10 (log 26); `REMAIN =
0`, which the loop never has, is left to log 22. `running`, `progress`, `env` and `trace` are fields of the model's own (log
4, log 7, log 21). -/
def Obligations.CommandWriteShortfall : Prop :=
  ∀ (i : Instr) (c : Byte) (s s1 s2 : State) (why : IoErr) (p : Packet) (m : Nat), commandCode i = some c →
    s.running = true → s.state = .portConfigured →
    (s.progress = .looping ∧ m = 0 ∨ s.progress = .moving ∧ m = s.moved) → m < 9 → s.fdOpen = true → s.remain ≠ 0 →
    (s.unready .write s2 why
      ∨ Memory.holds s.txbuf p ∧ s.readied .write s1 ∧ (envWrite (p.toList.drop m) s1).1 = .fatal ∧ why = .transferFailed
        ∧ s2 = { s1 with env := (envWrite (p.toList.drop m) s1).2.env
                         trace := .xferWrite s.fd (p.toList.drop m) .fatal :: s1.trace }) →
    (s.remain ≠ 1 → exec i s = .next
      { s with ioerr := why, remain := s.remain - 1, moved := m, progress := .looping, env := s2.env, trace := s2.trace })
    ∧ (s.remain = 1 → exec i s = .next
      { s with ioerr := why, remain := 0, moved := m, reason := .writeError, state := .failed, fdOpen := false
               closes := s.closes + 1, running := false, progress := .ready, env := (envClose s2).2.env
               trace := .close s.fd (envClose s2).1 :: s2.trace })

/-- R250, R238: in RequestSent a calibration command closes the descriptor once and ends the session: Done, or
Failed(CloseError) when the close fails. Nothing is read; `CONC` and `RXBUF` are unchanged. CloseError is the spec's decision
D10 (log 26). `running`, `progress`, `env` and `trace` are fields of the model's own (log 4, log 7, log 21). -/
def Obligations.CalibrationEndsAfterSend : Prop :=
  ∀ (i : Instr) (s : State), (i = .calZero ∨ i = .calSpan) → s.running = true → s.state = .requestSent →
    s.fdOpen = true →
    exec i s = .next
      { s with
        reason := if (envClose s).1 = .fail then .closeError else .none
        state := if (envClose s).1 = .fail then .failed else .done
        fdOpen := false, closes := s.closes + 1, running := false, progress := .ready
        env := (envClose s).2.env
        trace := .close s.fd (envClose s).1 :: s.trace }

/-- R203, R205, R207, R211, R252: a pass of READ_GAS's XFER_READ in RequestSent, with no timeout or after a readiness check
answered `Ready`, the environment giving some of the bytes asked for, or none on `Again`: they are stored from `RXBUF[MOVED]`
upward and `MOVED` rises; ResponseReceived is entered when all nine have moved. Going on after `Moved(0)` is the spec's
decision D8 (log 26). `running`, `progress`, `env` and `trace` are fields of the model's own (log 4, log 7, log 21). -/
def Obligations.ReadGasReadPass : Prop :=
  ∀ (s s1 : State) (a : ReadAnswer) (bytes : List Byte) (m : Nat), s.running = true → s.state = .requestSent →
    (s.progress = .ready ∧ m = 0 ∨ s.progress = .moving ∧ m = s.moved) → m < 9 → s.readied .read s1 →
    (envRead (9 - m) s1).1 = a → (a = .moved bytes ∨ a = .again ∧ bytes = []) →
    ∃ rx : Memory, exec .readGas s = .next
      { s with
        moved := m + bytes.length
        rxbuf := rx
        state := if m + bytes.length = 9 then .responseReceived else .requestSent
        progress := if m + bytes.length = 9 then .ready else .moving
        env := (envRead (9 - m) s1).2.env
        trace := .xferRead s.fd (9 - m) a :: s1.trace }
    ∧ m + bytes.length ≤ 9
    ∧ (∀ j < bytes.length, Memory.read? rx (m + j) = bytes[j]?)
    ∧ ∀ off, off < m ∨ m + bytes.length ≤ off → Memory.read? rx off = Memory.read? s.rxbuf off

/-- R251, R234, R235: a pass of READ_GAS's XFER_READ, the first one or a later one, that a failed readiness check or a `Fatal`
answer ends is a shortfall: `IOERR` records it, `REMAIN` falls by one, the bytes received so far stay in `RXBUF`; with budget
left the whole attempt starts again with the write; with none the session ends in Failed(ReadError), the descriptor closed
once, whatever the close answers. The return to PortConfigured, that every failure is a retried shortfall, that the reason is
that of the last one, and that it stands whatever the close answers are the spec's decisions D32, D17, D9 and D10 (log 26);
`REMAIN = 0`, which the loop never has, is left to log 22. `running`, `progress`, `env` and `trace` are fields of the model's
own (log 4, log 7, log 21). -/
def Obligations.ReadGasReadShortfall : Prop :=
  ∀ (s s1 s2 : State) (why : IoErr) (m : Nat), s.running = true → s.state = .requestSent →
    (s.progress = .ready ∧ m = 0 ∨ s.progress = .moving ∧ m = s.moved) → m < 9 → s.fdOpen = true → s.remain ≠ 0 →
    (s.unready .read s2 why
      ∨ s.readied .read s1 ∧ (envRead (9 - m) s1).1 = .fatal ∧ why = .transferFailed
        ∧ s2 = { s1 with env := (envRead (9 - m) s1).2.env, trace := .xferRead s.fd (9 - m) .fatal :: s1.trace }) →
    (s.remain ≠ 1 → exec .readGas s = .next
      { s with ioerr := why, remain := s.remain - 1, moved := m, state := .portConfigured, progress := .looping
               env := s2.env, trace := s2.trace })
    ∧ (s.remain = 1 → exec .readGas s = .next
      { s with ioerr := why, remain := 0, moved := m, reason := .readError, state := .failed, fdOpen := false
               closes := s.closes + 1, running := false, progress := .ready, env := (envClose s2).2.env
               trace := .close s.fd (envClose s2).1 :: s2.trace })

/-- R254, R99: in ResponseReceived a running session judges the packet in `RXBUF` whatever it is: an invalid one records the
failing check and ends in Failed(ProtocolError) with the descriptor closed once, `CONC` and `REMAIN` unchanged; a valid one
leaves its concentration in `CONC`. The write of `CONC` before the close, the tags and CloseError are the spec's decisions
D13, D5 and D10 (log 26). `running`, `progress`, `env` and `trace` are fields of the model's own (log 4, log 7, log 21). -/
def Obligations.ReceivedPacketJudged : Prop :=
  ∀ (s : State) (p : Packet), s.running = true → s.state = .responseReceived → s.fdOpen = true → Memory.holds s.rxbuf p →
    (∀ why, parseGas p = .invalid why → step s = .next
      { s with protoerr := why, reason := .protocolError, state := .failed, fdOpen := false
               closes := s.closes + 1, running := false, progress := .ready, env := (envClose s).2.env
               trace := .close s.fd (envClose s).1 :: s.trace })
    ∧ (∀ c, parseGas p = .ok c → step s = .next
      { s with conc := c
               reason := if (envClose s).1 = .fail then .closeError else .none
               state := if (envClose s).1 = .fail then .failed else .done
               fdOpen := false, closes := s.closes + 1, running := false, progress := .ready
               env := (envClose s).2.env
               trace := .close s.fd (envClose s).1 :: s.trace })

/-! ### The step -/

/-- A step runs the decoded instruction: while a session runs, the one the session is at; while none runs, the command in
`CMD` once the host has called, with that call taken off the host's pending actions (log 8). Where an instruction is fetched
is the model's choice (log 8). -/
def Obligations.StepRunsDecodedInstruction : Prop :=
  ∀ (s : State) (i : Instr),
    (s.running = true → s.state = .responseReceived → (∃ bytes, memRead s.rxbuf 0 9 = .next bytes ∧ decode bytes = .ok i) →
      (∃ c r k, i = .readGasResp c r k) → step s = exec i s)
    ∧ (s.running = true → s.state = .portConfigured → s.progress = .ready → requestInstr s.session = some i →
      step s = exec i s)
    ∧ (s.running = true → s.state ≠ .responseReceived → ¬(s.state = .portConfigured ∧ s.progress = .ready) →
      decode [s.session.cmd] = .ok i → step s = exec i s)
    ∧ (∀ rest, s.running = false → s.host = .processCommand :: rest → decode [s.cfg.cmd] = .ok i →
      step s = exec i { s with host := rest })

/-- R239: the transitions and the session procedure agree: while a session runs, whatever the step fetches, it does what the
session procedure does with the sampled command. The step's granularity and the packet rows as instructions are the model's
choices (log 7, log 8). -/
def Obligations.StepAgreesWithSession : Prop :=
  ∀ s : State, s.running = true → step s = sessionStep s.session.cmd s

/-- R45, R21 to R29: while no session runs, a host write changes the one register it names, and nothing else. The host's
pending actions are a list of the model's own (log 6). -/
def Obligations.HostWritesOneRegister : Prop :=
  ∀ (s : State) (rest : List HostAction) (v8 : Byte) (v16 : Half) (v32 : Word) (d : Nat), s.running = false →
    (s.state = .idle ∨ s.state = .done ∨ s.state = .failed) →
    (s.host = .writeDev d :: rest → step s = .next { s with host := rest, cfg := { s.cfg with dev := d } })
    ∧ (s.host = .writeBaud v32 :: rest → step s = .next { s with host := rest, cfg := { s.cfg with baud := v32 } })
    ∧ (s.host = .writeDataBits v8 :: rest → step s = .next { s with host := rest, cfg := { s.cfg with dataBits := v8 } })
    ∧ (s.host = .writeParity v8 :: rest → step s = .next { s with host := rest, cfg := { s.cfg with parity := v8 } })
    ∧ (s.host = .writeStopBits v8 :: rest → step s = .next { s with host := rest, cfg := { s.cfg with stopBits := v8 } })
    ∧ (s.host = .writeDirection v8 :: rest → step s = .next { s with host := rest, cfg := { s.cfg with direction := v8 } })
    ∧ (s.host = .writeCmd v8 :: rest → step s = .next { s with host := rest, cfg := { s.cfg with cmd := v8 } })
    ∧ (s.host = .writeSpan v16 :: rest → step s = .next { s with host := rest, cfg := { s.cfg with span := v16 } })
    ∧ (s.host = .writeTries v32 :: rest → step s = .next { s with host := rest, cfg := { s.cfg with tries := v32 } })
    ∧ (s.host = .writeTimeoutS v32 :: rest → step s = .next { s with host := rest, cfg := { s.cfg with timeoutS := v32 } })

/-- R320: after reset `STATE` is Idle, the failure registers are None, `FD_OPEN` is 0, no session runs and no call is pending,
so that the unit stays as it is; and the unit does nothing in any state until the host calls. The values are the spec's
decision D16 (log 26); `running` and `host` are the model's own (log 6, log 7). -/
def Obligations.ResetRests : Prop :=
  State.reset.state = .idle ∧ State.reset.reason = .none ∧ State.reset.cfgerr = .none ∧ State.reset.protoerr = .none
  ∧ State.reset.ioerr = .none ∧ State.reset.fdOpen = false ∧ State.reset.opens = 0 ∧ State.reset.closes = 0
  ∧ State.reset.running = false ∧ State.reset.host = [] ∧ step State.reset = .next State.reset
  ∧ ∀ s : State, s.running = false → s.host = [] → step s = .next s

/-- R30, R281 to R284: the numeric codes of the status registers. R45: what the host reads is those codes and `CONC`. R256,
R32: `processCommand` returns success in Done and `REASON` in Failed, and a step of a session makes it return exactly when it
enters one of the two. The codes are the spec's decision D5 (log 26); `running` is the model's own (log 7). -/
def Obligations.StatusCodes : Prop :=
  [SessionState.idle, .portOpened, .portConfigured, .requestSent, .responseReceived, .done, .failed].map SessionState.code
      = [0, 1, 2, 3, 4, 5, 6]
  ∧ [Reason.none, .openError, .configError, .unsupportedCommand, .writeError, .readError, .protocolError, .closeError].map
      Reason.code = [0, 1, 2, 3, 4, 5, 6, 7]
  ∧ [CfgErr.none, .unsupportedBaudRate, .getAttrFailed, .unsupportedDirection, .unsupportedDataBits, .unsupportedParity,
      .unsupportedStopBits, .setAttrFailed].map CfgErr.code = [0, 1, 3, 4, 5, 6, 7, 9]
  ∧ [ProtoErr.none, .badStart, .badCommand, .badChecksum].map ProtoErr.code = [0, 1, 2, 3]
  ∧ [IoErr.none, .deadlineExceeded, .waitFailed, .transferFailed, .unsupportedOperation].map IoErr.code = [0, 1, 2, 3, 4]
  ∧ (∀ s : State, s.hostView = { state := s.state.code, reason := s.reason.code, cfgerr := s.cfgerr.code
                                 protoerr := s.protoerr.code, ioerr := s.ioerr.code, conc := s.conc })
  ∧ (∀ s : State, (s.returnCode = some .success ↔ s.state = .done)
      ∧ ∀ why, s.returnCode = some (.failure why) ↔ s.state = .failed ∧ s.reason = why)
  ∧ ∀ s t : State, s.Inv → s.running = true → step s = .next t → (t.running = false ↔ t.returnCode ≠ none)

/-! ### Whole-machine rules -/

/-- The invariant of the machine holds after reset. The reset values are the spec's decision D16 (log 26) and the model's
choices (log 1, log 2, log 3). -/
def Obligations.ResetMeetsInvariant : Prop :=
  State.reset.Inv ∧ State.reset.TraceCounts ∧ State.reset.ConfigBeforeTransfer

/-- The invariant is kept by every step, from every state that meets it: the descriptor is held exactly while STATE says so
and is closed once (R258), the retry budget is `TRIES` less the shortfalls and never wraps (R236), `TXBUF` holds the one
request of the session (R73), `RXBUF` is read only when full (R252, R34), the buffers keep their canonical form. R236 and R258
are marked inferences of the spec's own; the canonical form of the buffers is log 3, `progress` log 7. -/
def Obligations.StepKeepsInvariant : Prop :=
  ∀ s t : State, s.Inv → step s = .next t → t.Inv

/-- No rule of the spec reads a byte nothing has written or reaches past offset 8 (R34, R44, R66): from a state that meets the
invariant no step faults, and while a session runs every step answers a next state. The spec marks these sentences of R34, R44
and R66 as inferences of its own; the faults themselves are log 3. -/
def Obligations.SessionNeverStops : Prop :=
  ∀ s : State, s.Inv → isFault (step s) = false ∧ (s.running = true → ∃ t, step s = .next t)

/-- R258, along every run from a state that meets the invariant: whenever no session runs, at most one open was answered,
every one was closed exactly once, no descriptor is held; and the ghost counters count what the requests were (R40). R258 is
marked an inference of the spec's own; the requests are read off the model's `trace` (log 21). -/
def Obligations.ResourcesReleasedAlongRuns : Prop :=
  ∀ (n : Nat) (s t : State), s.Inv → s.TraceCounts → Host.Core.run core n s = .next t →
    t.TraceCounts ∧ (t.running = false → t.opens ≤ 1 ∧ t.closes = t.opens ∧ t.fdOpen = false)

/-- R286: no EnvPoll and no EnvXfer is issued before PortConfigured, and so none in a session that ends in ConfigError. The
spec marks this sentence of R286 as an inference of its own; the requests are read off the model's `trace` (log 21). -/
def Obligations.ConfigErrorsBeforeTransfers : Prop :=
  ∀ s t : State, s.Inv → s.ConfigBeforeTransfer → step s = .next t → t.ConfigBeforeTransfer

/-- R326, R45, R20: while a session runs the host has no move, and the unit writes no configuration register and keeps its
samples. That the host is blocked is the spec's decision D30, that the registers are sampled D15 (log 6, log 15). -/
def Obligations.HostHasNoMoveWhileRunning : Prop :=
  ∀ s t : State, s.running = true → step s = .next t → t.host = s.host ∧ t.cfg = s.cfg ∧ t.session = s.session

/-- R35: `CONC` is written at one place only: by a step in ResponseReceived of a running session whose received packet is
valid, with that packet's concentration. That it keeps its earlier value otherwise is the spec's decision D13 (log 26). -/
def Obligations.ConcWrittenOnlyByValidResponse : Prop :=
  ∀ s t : State, step s = .next t → t.conc ≠ s.conc →
    s.running = true ∧ s.state = .responseReceived ∧ ∃ p, readPacket s.rxbuf = .next p ∧ parseGas p = .ok t.conc

/-- R73, R247: once the retry loop is entered, no step of the session changes `TXBUF`: every attempt sends the same nine
bytes. Where the loop is entered is said by the model's `progress` (log 7). -/
def Obligations.RequestNotRebuilt : Prop :=
  ∀ s t : State, s.running = true → s.inLoop = true → step s = .next t → t.txbuf = s.txbuf

/-- R257, R302: Done and Failed are left only by the host's next start: a step of a resting unit keeps STATE, REASON, the
sub-causes and `CONC`, or is a start, which enters Idle with the failure registers cleared and `CONC` kept. Holding the state
between sessions is the spec's decision D21 (log 26). -/
def Obligations.TerminalStatesHeld : Prop :=
  ∀ s t : State, s.running = false → step s = .next t →
    (t.running = false ∧ t.state = s.state ∧ t.reason = s.reason ∧ t.cfgerr = s.cfgerr ∧ t.protoerr = s.protoerr
        ∧ t.ioerr = s.ioerr ∧ t.conc = s.conc ∧ t.fdOpen = s.fdOpen)
    ∨ (t.running = true ∧ t.state = .idle ∧ t.reason = .none ∧ t.cfgerr = .none ∧ t.protoerr = .none ∧ t.ioerr = .none
        ∧ t.conc = s.conc ∧ ∃ rest, s.host = .processCommand :: rest ∧ t.session = s.cfg)

/-- R231: a session never reads the `DIRECTION` register: a running step with another value in the register, and another
sampled value, does the same. The sampled copy of the registers is log 15. -/
def Obligations.DirectionNeverRead : Prop :=
  ∀ (s t : State) (d e : Byte), s.running = true → step s = .next t →
    step { s with cfg := { s.cfg with direction := d }, session := { s.session with direction := e } } =
      .next { t with cfg := { t.cfg with direction := d }, session := { t.session with direction := e } }

/-- R240's straight path, for any supported line settings and any valid response: a READ_GAS session that the environment
answers favourably, started by the host with `TIMEOUT_S = 0`, takes seven steps to Done with the concentration in `CONC`, the
request handed out once, the response taken once, and the descriptor closed once. The number of steps is the model's
granularity (log 7); the character codes of `PARITY` are log 24 (PRESUMED, unsafe); the answers and the bytes are read off
`env` and `trace` (log 4, log 21). -/
def Obligations.ReadGasSessionSucceeds : Prop :=
  ∀ (s : State) (rest : List HostAction) (fd : Nat) (a : DeviceAttr) (p : Packet) (c : Half)
    (os : List OpenAnswer) (gs : List GetAttrAnswer) (ss : List Ack) (ws : List WriteAnswer) (rs : List ReadAnswer)
    (cs : List Ack),
    s.running = false → (s.state = .idle ∨ s.state = .done ∨ s.state = .failed) → s.host = .processCommand :: rest →
    s.cfg.cmd = 0 → s.cfg.tries ≠ 0 → s.cfg.timeoutS = 0 → s.cfg.baud ∈ baudSet →
    s.cfg.dataBits ∈ [0#8, 5#8, 6#8, 7#8, 8#8] →
    s.cfg.parity ∈ [0x00#8, 0x4E#8, 0x6E#8, 0x53#8, 0x73#8, 0x45#8, 0x65#8, 0x4F#8, 0x6F#8] →
    s.cfg.stopBits ∈ [0#8, 10#8, 20#8] → parseGas p = .ok c →
    s.env.opens = .ok fd :: os → s.env.getAttrs = .ok a :: gs → s.env.setAttrs = .ok :: ss →
    s.env.writes = .moved 9 :: ws → s.env.reads = .moved p.toList :: rs → s.env.closes = .ok :: cs →
    ∃ t, Host.Core.run core 7 s = .next t ∧ t.state = .done ∧ t.reason = .none ∧ t.conc = c ∧ t.running = false
      ∧ t.opens = 1 ∧ t.closes = 1 ∧ t.fdOpen = false ∧ t.remain = s.cfg.tries ∧ t.cfg = s.cfg ∧ t.host = rest
      ∧ t.outbound = [0xFF, 0x01, 0x86, 0, 0, 0, 0, 0, 0x79] ∧ t.inbound = p.toList

/-- R241, R242's straight path: a calibration session that the environment answers favourably takes six steps to Done, hands
out its request once, reads nothing, and leaves `CONC` and `RXBUF` as they were. The number of steps is the model's
granularity (log 7); the character codes of `PARITY` are log 24 (PRESUMED, unsafe); the answers and the bytes are read off
`env` and `trace` (log 4, log 21). -/
def Obligations.CalibrationSessionSucceeds : Prop :=
  ∀ (s : State) (rest : List HostAction) (fd : Nat) (a : DeviceAttr) (q : Packet)
    (os : List OpenAnswer) (gs : List GetAttrAnswer) (ss : List Ack) (ws : List WriteAnswer) (cs : List Ack),
    s.running = false → (s.state = .idle ∨ s.state = .done ∨ s.state = .failed) → s.host = .processCommand :: rest →
    (s.cfg.cmd = 1 ∧ q = buildCalZero ∨ s.cfg.cmd = 2 ∧ q = buildCalSpan s.cfg.span) →
    s.cfg.tries ≠ 0 → s.cfg.timeoutS = 0 → s.cfg.baud ∈ baudSet →
    s.cfg.dataBits ∈ [0#8, 5#8, 6#8, 7#8, 8#8] →
    s.cfg.parity ∈ [0x00#8, 0x4E#8, 0x6E#8, 0x53#8, 0x73#8, 0x45#8, 0x65#8, 0x4F#8, 0x6F#8] →
    s.cfg.stopBits ∈ [0#8, 10#8, 20#8] →
    s.env.opens = .ok fd :: os → s.env.getAttrs = .ok a :: gs → s.env.setAttrs = .ok :: ss →
    s.env.writes = .moved 9 :: ws → s.env.closes = .ok :: cs →
    ∃ t, Host.Core.run core 6 s = .next t ∧ t.state = .done ∧ t.reason = .none ∧ t.running = false
      ∧ t.opens = 1 ∧ t.closes = 1 ∧ t.fdOpen = false ∧ t.conc = s.conc ∧ t.rxbuf = s.rxbuf ∧ t.cfg = s.cfg
      ∧ t.outbound = q.toList ∧ t.inbound = []

/-- R258, the requests themselves: while no session runs no request is made; a session that holds no descriptor makes no
request but EnvOpen, and holds one once an open is answered `Ok`; one that holds a descriptor makes every request on that
descriptor, and closes it in the step in which it gives it up, once, as the last request. The spec marks R258 as an inference
of its own; the requests are read off the model's `trace` (log 21). -/
def Obligations.RequestsUseHeldDescriptor : Prop :=
  ∀ s t : State, s.Inv → step s = .next t →
    (s.running = false → t.trace = s.trace ∨ t.trace = [])
    ∧ (s.running = true → ∃ evs, t.trace = evs ++ s.trace
      ∧ (s.fdOpen = false → (∀ e ∈ evs, e.descriptor = none)
          ∧ evs.countP Event.isOpened = if t.fdOpen = true then 1 else 0)
      ∧ (s.fdOpen = true → (∀ e ∈ evs, e.descriptor = some s.fd) ∧ (∀ e ∈ evs.tail, e.isClose = false)
          ∧ evs.countP Event.isClose = if t.fdOpen = true then 0 else 1))
end

