-- ==== Sys2Proof/Laws/Codec.lean ====
section
/-! SUPPORT. The checksum loop as a sum of naturals, and what a parsed packet is (42_packet_codec.md R152, R153, R160). -/

namespace Sys2Proof.Machine

/-- What the checksum loop leaves, together with the bytes it has subtracted, is what it started from, modulo 256. -/
theorem checksumLoop_add_sum (t : Byte) (payload : List Byte) :
    ((checksumLoop t payload).toNat + (payload.map BitVec.toNat).sum) % 256 = t.toNat % 256 := by
  induction payload generalizing t with
  | nil => simp [checksumLoop]
  | cons b bs ih =>
    simp only [checksumLoop, List.map_cons, List.sum_cons]
    have h := ih (t - b)
    have hb := b.isLt
    rw [BitVec.toNat_sub] at h
    omega

/-- The checksum does not depend on the bytes at offsets 0 and 8 (R152). -/
theorem checksum_congr {p q : Packet} (h : p.payload = q.payload) : checksum (some p) = checksum (some q) := by
  simp only [checksum, packetChecksum, h]

/-- A packet PARSE_GAS accepts has the two marks and its checksum, and gives the big-endian field (R160). -/
theorem parseGas_eq_ok {p : Packet} {c : Half} (h : parseGas p = .ok c) :
    p.b0 = startMarker ∧ p.b1 = cmdRead ∧ p.b8 = checksum (some p) ∧ c = joinBytes p.b2 p.b3 := by
  unfold parseGas at h
  split_ifs at h with h0 h1 h2
  simp only [not_not] at h0 h1 h2
  cases h
  exact ⟨h0, h1, h2, rfl⟩

end Sys2Proof.Machine
end

