-- ==== Sys2Proof/Laws/Flags.lean ====
section
/-! SUPPORT. What the flag operations do to a word: a replaced sub-field, a flag set or cleared in a named word
(41_line_encoding.md R131, R132; 43_port_configurator.md R187); the stand-in layout is admissible (R130). -/

namespace Sys2Proof.Machine

open Sys2Proof.Config

/-- Replacing a sub-field by a pattern inside its mask changes no bit outside the mask and leaves the pattern inside it. -/
theorem replaceField_spec {W : Nat} {mask pattern : BitVec W} (flags : BitVec W) (h : pattern &&& ~~~mask = 0) :
    replaceField mask pattern flags &&& ~~~mask = flags &&& ~~~mask ∧ replaceField mask pattern flags &&& mask = pattern := by
  constructor <;> refine BitVec.eq_of_getLsbD_eq fun i hi => ?_ <;>
    have hb := congrArg (fun x => x.getLsbD i) h <;> simp [replaceField, hi] at hb ⊢ <;>
    cases flags.getLsbD i <;> cases hm : mask.getLsbD i <;> cases hp : pattern.getLsbD i <;> simp_all

/-- Two replacements in disjoint sub-fields commute. -/
theorem replaceField_comm {W : Nat} {m p m' p' : BitVec W} (flags : BitVec W) (hp : p &&& ~~~m = 0)
    (hp' : p' &&& ~~~m' = 0) (hm : m &&& m' = 0) :
    replaceField m p (replaceField m' p' flags) = replaceField m' p' (replaceField m p flags) := by
  refine BitVec.eq_of_getLsbD_eq fun i hi => ?_
  have h1 := congrArg (fun x => x.getLsbD i) hp
  have h2 := congrArg (fun x => x.getLsbD i) hp'
  have h3 := congrArg (fun x => x.getLsbD i) hm
  simp [hi, replaceField] at h1 h2 h3 ⊢
  cases flags.getLsbD i <;> cases hm1 : m.getLsbD i <;> cases hp1 : p.getLsbD i <;> cases hm2 : m'.getLsbD i <;>
    cases hp2 : p'.getLsbD i <;> simp_all

/-- Replacing a sub-field twice by one pattern is replacing it once. -/
theorem replaceField_idem {W : Nat} (m p flags : BitVec W) :
    replaceField m p (replaceField m p flags) = replaceField m p flags := by
  refine BitVec.eq_of_getLsbD_eq fun i hi => ?_
  simp [hi, replaceField]
  cases flags.getLsbD i <;> cases hm : m.getLsbD i <;> cases hp : p.getLsbD i <;> simp_all

/-- A flag set in a named word. -/
theorem wordOf_setBits {W : Nat} (w w' : FlagWordName) (m : BitVec W) (a : Attr W) :
    wordOf w (setBits w' m a) = if w' = w then wordOf w a ||| m else wordOf w a := by
  cases w <;> cases w' <;> rfl

/-- A flag cleared in a named word. -/
theorem wordOf_clearBits {W : Nat} (w w' : FlagWordName) (m : BitVec W) (a : Attr W) :
    wordOf w (clearBits w' m a) = if w' = w then wordOf w a &&& ~~~m else wordOf w a := by
  cases w <;> cases w' <;> rfl

/-- In a word of five bits or more, different numbers below 32 are different words. -/
theorem ofNat_inj_of_small {W a b : Nat} (hW : 5 ≤ W) (ha : a < 32) (hb : b < 32) :
    BitVec.ofNat W a = BitVec.ofNat W b ↔ a = b := by
  have h32 : 2 ^ 5 ≤ 2 ^ W := Nat.pow_le_pow_right (by omega) hW
  rw [← BitVec.toNat_inj, BitVec.toNat_ofNat, BitVec.toNat_ofNat, Nat.mod_eq_of_lt (by omega), Nat.mod_eq_of_lt (by omega)]

/-- A word lies inside a mask exactly when masking keeps it. -/
theorem and_not_eq_zero_iff {W : Nat} (x y : BitVec W) : x &&& ~~~y = 0 ↔ x &&& y = x := by
  constructor <;> intro h <;> refine BitVec.eq_of_getLsbD_eq fun i hi => ?_ <;>
    have hb := congrArg (fun z => z.getLsbD i) h <;> simp [hi] at hb ⊢ <;>
    cases hx : x.getLsbD i <;> cases hy : y.getLsbD i <;> simp_all

theorem ofNat_sub_one {W a : Nat} : BitVec.ofNat W (a + 1) - 1 = BitVec.ofNat W a := by
  simp [BitVec.ofNat_add]

/-- The stand-in layout is admissible for every width the members of R130 fit in (log 11, log 12). -/
theorem plainLayout_ok {W : Nat} (hW : 5 ≤ W) : FlagLayout.Ok (plainLayout : FlagLayout W) := by
  have e := fun a b ha hb => @ofNat_inj_of_small W a b hW ha hb
  have one : ∀ k < 5, oneBit (BitVec.ofNat W (2 ^ k)) := fun k hk => by
    have hk' : 2 ^ k < 32 := Nat.pow_lt_pow_right (by omega) hk
    refine ⟨fun h => absurd ((e _ 0 hk' (by omega)).mp h) (by positivity), ?_⟩
    interval_cases k <;> simp only [← BitVec.ofNat_and, @ofNat_sub_one W 0, @ofNat_sub_one W 1,
      @ofNat_sub_one W 3, @ofNat_sub_one W 7, @ofNat_sub_one W 15, Nat.reducePow] <;> rfl
  refine ⟨fun h => absurd ((e 3 0 (by omega) (by omega)).mp h) (by omega), ?_, ?_, ?_, ?_⟩
  · simp only [plainLayout, and_not_eq_zero_iff]
    simp [← BitVec.ofNat_and]
  · simp [plainLayout, e]
  · simp only [plainLayout, List.forall_mem_cons]
    exact ⟨one 2 (by omega), one 3 (by omega), one 4 (by omega), one 3 (by omega), one 4 (by omega), one 0 (by omega),
      one 1 (by omega), one 2 (by omega), by simp⟩
  · simp [plainLayout, layoutMembers, ← BitVec.ofNat_and]
/-- A word that is not zero has a bit set. -/
theorem exists_bit_of_ne_zero {W : Nat} {x : BitVec W} (h : x ≠ 0) : ∃ i < W, x.getLsbD i = true := by
  by_contra hc
  push Not at hc
  exact h (BitVec.eq_of_getLsbD_eq fun i hi => by simpa using hc i hi)

/-- Disjoint words share no bit. -/
theorem bit_ne_of_disjoint {W i j : Nat} {x y : BitVec W} (h : x &&& y = 0) (hi : x.getLsbD i = true)
    (hj : y.getLsbD j = true) : i ≠ j := by
  rintro rfl
  have := congrArg (fun z => z.getLsbD i) h
  simp [hi, hj] at this

/-- A mask that three different patterns lie in has two bits. -/
theorem exists_two_bits {W : Nat} {m a b c : BitVec W} (ha : a &&& ~~~m = 0) (hb : b &&& ~~~m = 0) (hc : c &&& ~~~m = 0)
    (hab : a ≠ b) (hac : a ≠ c) (hbc : b ≠ c) :
    ∃ i < W, ∃ j < W, i ≠ j ∧ m.getLsbD i = true ∧ m.getLsbD j = true := by
  by_contra hn
  push Not at hn
  have sub : ∀ {p : BitVec W}, p &&& ~~~m = 0 → ∀ {k}, k < W → p.getLsbD k = true → m.getLsbD k = true := by
    intro p hp k hk hpk
    have := congrArg (fun z => z.getLsbD k) hp
    simpa [hpk, hk] using this
  have same : ∀ {p q : BitVec W}, p &&& ~~~m = 0 → q &&& ~~~m = 0 → ∀ i < W, m.getLsbD i = true →
      p.getLsbD i = q.getLsbD i → p = q := by
    intro p q hp hq i hi hmi he
    refine BitVec.eq_of_getLsbD_eq fun k hk => ?_
    by_cases hik : i = k
    · exact hik ▸ he
    · have hmk := hn i hi k hk hik hmi
      rw [Bool.eq_false_iff.mpr fun h => hmk (sub hp hk h), Bool.eq_false_iff.mpr fun h => hmk (sub hq hk h)]
  have hm : m ≠ 0 := by
    intro h0
    have off : ∀ k, m.getLsbD k ≠ true := by simp [h0]
    refine hab (BitVec.eq_of_getLsbD_eq fun k hk => ?_)
    rw [Bool.eq_false_iff.mpr fun h => off k (sub ha hk h), Bool.eq_false_iff.mpr fun h => off k (sub hb hk h)]
  obtain ⟨i, hi, hmi⟩ := exists_bit_of_ne_zero hm
  have two : ∀ x y z : Bool, x = y ∨ x = z ∨ y = z := by decide
  rcases two (a.getLsbD i) (b.getLsbD i) (c.getLsbD i) with h | h | h
  · exact hab (same ha hb i hi hmi h)
  · exact hac (same ha hc i hi hmi h)
  · exact hbc (same hb hc i hi hmi h)

/-- No layout that meets R130 has fewer than five bits in a flags word (log 12). -/
theorem FlagLayout.Ok.five_le {W : Nat} {L : FlagLayout W} (h : FlagLayout.Ok L) : 5 ≤ W := by
  obtain ⟨-, hcs, hnd, hone, hdis⟩ := h
  simp only [List.nodup_cons, List.mem_cons, not_or] at hnd
  simp only [layoutMembers, List.pairwise_cons, List.mem_cons, forall_eq_or_imp] at hdis
  obtain ⟨i, hi, j, hj, hij, hmi, hmj⟩ :=
    exists_two_bits (hcs L.cs5 (by simp)) (hcs L.cs6 (by simp)) (hcs L.cs7 (by simp)) hnd.1.1 hnd.1.2.1 hnd.2.1.1
  obtain ⟨k, hk, hbk⟩ := exists_bit_of_ne_zero (hone L.parEnable (by simp)).1
  obtain ⟨l, hl, hbl⟩ := exists_bit_of_ne_zero (hone L.parOdd (by simp)).1
  obtain ⟨n, hn, hbn⟩ := exists_bit_of_ne_zero (hone L.stop2 (by simp)).1
  have c1 := hdis.1.1 trivial
  have c2 := hdis.1.2.1 trivial
  have c3 := hdis.1.2.2.1 trivial
  have c4 := hdis.2.1.1 trivial
  have c5 := hdis.2.1.2.1 trivial
  have c6 := hdis.2.2.1.1 trivial
  have hs : ({i, j, k, l, n} : Finset Nat) ⊆ Finset.range W := by
    intro x hx
    simp only [Finset.mem_insert, Finset.mem_singleton] at hx
    rcases hx with rfl | rfl | rfl | rfl | rfl <;> simpa
  have hcard : ({i, j, k, l, n} : Finset Nat).card = 5 := by
    have d := @bit_ne_of_disjoint W
    simp [hij, d c1 hmi hbk, d c2 hmi hbl, d c3 hmi hbn, d c1 hmj hbk, d c2 hmj hbl, d c3 hmj hbn, d c4 hbk hbl,
      d c5 hbk hbn, d c6 hbl hbn]
  simpa [hcard] using Finset.card_le_card hs

end Sys2Proof.Machine
end

