-- ==== Sys2Proof/Laws/State.lean ====
section
/-! SUPPORT. One lemma per field for each named update of the state (Machine/Ops.lean), so that no later proof unfolds a record
update. -/

namespace Sys2Proof.Machine

open Sys2Proof.Config

/-! ### `State.asked`: an environment request -/

@[simp] theorem State.asked_cfg (s : State) (env : Env) (ev : Event) : (s.asked env ev).cfg = s.cfg := rfl
@[simp] theorem State.asked_session (s : State) (env : Env) (ev : Event) : (s.asked env ev).session = s.session := rfl
@[simp] theorem State.asked_state (s : State) (env : Env) (ev : Event) : (s.asked env ev).state = s.state := rfl
@[simp] theorem State.asked_reason (s : State) (env : Env) (ev : Event) : (s.asked env ev).reason = s.reason := rfl
@[simp] theorem State.asked_cfgerr (s : State) (env : Env) (ev : Event) : (s.asked env ev).cfgerr = s.cfgerr := rfl
@[simp] theorem State.asked_protoerr (s : State) (env : Env) (ev : Event) : (s.asked env ev).protoerr = s.protoerr := rfl
@[simp] theorem State.asked_ioerr (s : State) (env : Env) (ev : Event) : (s.asked env ev).ioerr = s.ioerr := rfl
@[simp] theorem State.asked_txbuf (s : State) (env : Env) (ev : Event) : (s.asked env ev).txbuf = s.txbuf := rfl
@[simp] theorem State.asked_rxbuf (s : State) (env : Env) (ev : Event) : (s.asked env ev).rxbuf = s.rxbuf := rfl
@[simp] theorem State.asked_conc (s : State) (env : Env) (ev : Event) : (s.asked env ev).conc = s.conc := rfl
@[simp] theorem State.asked_remain (s : State) (env : Env) (ev : Event) : (s.asked env ev).remain = s.remain := rfl
@[simp] theorem State.asked_moved (s : State) (env : Env) (ev : Event) : (s.asked env ev).moved = s.moved := rfl
@[simp] theorem State.asked_fd (s : State) (env : Env) (ev : Event) : (s.asked env ev).fd = s.fd := rfl
@[simp] theorem State.asked_fdOpen (s : State) (env : Env) (ev : Event) : (s.asked env ev).fdOpen = s.fdOpen := rfl
@[simp] theorem State.asked_attr (s : State) (env : Env) (ev : Event) : (s.asked env ev).attr = s.attr := rfl
@[simp] theorem State.asked_opens (s : State) (env : Env) (ev : Event) : (s.asked env ev).opens = s.opens := rfl
@[simp] theorem State.asked_closes (s : State) (env : Env) (ev : Event) : (s.asked env ev).closes = s.closes := rfl
@[simp] theorem State.asked_running (s : State) (env : Env) (ev : Event) : (s.asked env ev).running = s.running := rfl
@[simp] theorem State.asked_progress (s : State) (env : Env) (ev : Event) : (s.asked env ev).progress = s.progress := rfl
@[simp] theorem State.asked_env (s : State) (env : Env) (ev : Event) : (s.asked env ev).env = env := rfl
@[simp] theorem State.asked_host (s : State) (env : Env) (ev : Event) : (s.asked env ev).host = s.host := rfl
@[simp] theorem State.asked_trace (s : State) (env : Env) (ev : Event) : (s.asked env ev).trace = ev :: s.trace := rfl

/-! ### `State.closed`: the descriptor is given up -/

@[simp] theorem State.closed_cfg (s : State) : (s.closed).cfg = s.cfg := rfl
@[simp] theorem State.closed_session (s : State) : (s.closed).session = s.session := rfl
@[simp] theorem State.closed_state (s : State) : (s.closed).state = s.state := rfl
@[simp] theorem State.closed_reason (s : State) : (s.closed).reason = s.reason := rfl
@[simp] theorem State.closed_cfgerr (s : State) : (s.closed).cfgerr = s.cfgerr := rfl
@[simp] theorem State.closed_protoerr (s : State) : (s.closed).protoerr = s.protoerr := rfl
@[simp] theorem State.closed_ioerr (s : State) : (s.closed).ioerr = s.ioerr := rfl
@[simp] theorem State.closed_txbuf (s : State) : (s.closed).txbuf = s.txbuf := rfl
@[simp] theorem State.closed_rxbuf (s : State) : (s.closed).rxbuf = s.rxbuf := rfl
@[simp] theorem State.closed_conc (s : State) : (s.closed).conc = s.conc := rfl
@[simp] theorem State.closed_remain (s : State) : (s.closed).remain = s.remain := rfl
@[simp] theorem State.closed_moved (s : State) : (s.closed).moved = s.moved := rfl
@[simp] theorem State.closed_fd (s : State) : (s.closed).fd = s.fd := rfl
@[simp] theorem State.closed_fdOpen (s : State) : (s.closed).fdOpen = false := rfl
@[simp] theorem State.closed_attr (s : State) : (s.closed).attr = s.attr := rfl
@[simp] theorem State.closed_opens (s : State) : (s.closed).opens = s.opens := rfl
@[simp] theorem State.closed_closes (s : State) : (s.closed).closes = s.closes + 1 := rfl
@[simp] theorem State.closed_running (s : State) : (s.closed).running = s.running := rfl
@[simp] theorem State.closed_progress (s : State) : (s.closed).progress = s.progress := rfl
@[simp] theorem State.closed_env (s : State) : (s.closed).env = s.env := rfl
@[simp] theorem State.closed_host (s : State) : (s.closed).host = s.host := rfl
@[simp] theorem State.closed_trace (s : State) : (s.closed).trace = s.trace := rfl

/-! ### `finish`: the end of a session -/

@[simp] theorem finish_cfg (target : SessionState) (why : Reason) (s : State) : (finish target why s).cfg = s.cfg := rfl
@[simp] theorem finish_session (target : SessionState) (why : Reason) (s : State) : (finish target why s).session = s.session := rfl
@[simp] theorem finish_state (target : SessionState) (why : Reason) (s : State) : (finish target why s).state = target := rfl
@[simp] theorem finish_reason (target : SessionState) (why : Reason) (s : State) : (finish target why s).reason = why := rfl
@[simp] theorem finish_cfgerr (target : SessionState) (why : Reason) (s : State) : (finish target why s).cfgerr = s.cfgerr := rfl
@[simp] theorem finish_protoerr (target : SessionState) (why : Reason) (s : State) : (finish target why s).protoerr = s.protoerr := rfl
@[simp] theorem finish_ioerr (target : SessionState) (why : Reason) (s : State) : (finish target why s).ioerr = s.ioerr := rfl
@[simp] theorem finish_txbuf (target : SessionState) (why : Reason) (s : State) : (finish target why s).txbuf = s.txbuf := rfl
@[simp] theorem finish_rxbuf (target : SessionState) (why : Reason) (s : State) : (finish target why s).rxbuf = s.rxbuf := rfl
@[simp] theorem finish_conc (target : SessionState) (why : Reason) (s : State) : (finish target why s).conc = s.conc := rfl
@[simp] theorem finish_remain (target : SessionState) (why : Reason) (s : State) : (finish target why s).remain = s.remain := rfl
@[simp] theorem finish_moved (target : SessionState) (why : Reason) (s : State) : (finish target why s).moved = s.moved := rfl
@[simp] theorem finish_fd (target : SessionState) (why : Reason) (s : State) : (finish target why s).fd = s.fd := rfl
@[simp] theorem finish_fdOpen (target : SessionState) (why : Reason) (s : State) : (finish target why s).fdOpen = s.fdOpen := rfl
@[simp] theorem finish_attr (target : SessionState) (why : Reason) (s : State) : (finish target why s).attr = s.attr := rfl
@[simp] theorem finish_opens (target : SessionState) (why : Reason) (s : State) : (finish target why s).opens = s.opens := rfl
@[simp] theorem finish_closes (target : SessionState) (why : Reason) (s : State) : (finish target why s).closes = s.closes := rfl
@[simp] theorem finish_running (target : SessionState) (why : Reason) (s : State) : (finish target why s).running = false := rfl
@[simp] theorem finish_progress (target : SessionState) (why : Reason) (s : State) : (finish target why s).progress = .ready := rfl
@[simp] theorem finish_env (target : SessionState) (why : Reason) (s : State) : (finish target why s).env = s.env := rfl
@[simp] theorem finish_host (target : SessionState) (why : Reason) (s : State) : (finish target why s).host = s.host := rfl
@[simp] theorem finish_trace (target : SessionState) (why : Reason) (s : State) : (finish target why s).trace = s.trace := rfl

/-! ### `started`: the start step -/

@[simp] theorem started_cfg (cmd : Byte) (s : State) : (started cmd s).cfg = s.cfg := rfl
@[simp] theorem started_session (cmd : Byte) (s : State) : (started cmd s).session = { s.cfg with cmd := cmd } := rfl
@[simp] theorem started_state (cmd : Byte) (s : State) : (started cmd s).state = .idle := rfl
@[simp] theorem started_reason (cmd : Byte) (s : State) : (started cmd s).reason = .none := rfl
@[simp] theorem started_cfgerr (cmd : Byte) (s : State) : (started cmd s).cfgerr = .none := rfl
@[simp] theorem started_protoerr (cmd : Byte) (s : State) : (started cmd s).protoerr = .none := rfl
@[simp] theorem started_ioerr (cmd : Byte) (s : State) : (started cmd s).ioerr = .none := rfl
@[simp] theorem started_txbuf (cmd : Byte) (s : State) : (started cmd s).txbuf = s.txbuf := rfl
@[simp] theorem started_rxbuf (cmd : Byte) (s : State) : (started cmd s).rxbuf = s.rxbuf := rfl
@[simp] theorem started_conc (cmd : Byte) (s : State) : (started cmd s).conc = s.conc := rfl
@[simp] theorem started_remain (cmd : Byte) (s : State) : (started cmd s).remain = s.remain := rfl
@[simp] theorem started_moved (cmd : Byte) (s : State) : (started cmd s).moved = s.moved := rfl
@[simp] theorem started_fd (cmd : Byte) (s : State) : (started cmd s).fd = s.fd := rfl
@[simp] theorem started_fdOpen (cmd : Byte) (s : State) : (started cmd s).fdOpen = s.fdOpen := rfl
@[simp] theorem started_attr (cmd : Byte) (s : State) : (started cmd s).attr = s.attr := rfl
@[simp] theorem started_opens (cmd : Byte) (s : State) : (started cmd s).opens = 0 := rfl
@[simp] theorem started_closes (cmd : Byte) (s : State) : (started cmd s).closes = 0 := rfl
@[simp] theorem started_running (cmd : Byte) (s : State) : (started cmd s).running = true := rfl
@[simp] theorem started_progress (cmd : Byte) (s : State) : (started cmd s).progress = .ready := rfl
@[simp] theorem started_env (cmd : Byte) (s : State) : (started cmd s).env = s.env := rfl
@[simp] theorem started_host (cmd : Byte) (s : State) : (started cmd s).host = s.host := rfl
@[simp] theorem started_trace (cmd : Byte) (s : State) : (started cmd s).trace = [] := rfl

/-! ### The draws: the answer, and the state as `State.asked` leaves it -/

@[simp] theorem envOpen_fst (s : State) : (envOpen s).1 = (drawFrom Config.openAnswer s.env.opens s.env.draws).1 := rfl
@[simp] theorem envGetAttr_fst (fd : Nat) (s : State) :
    (envGetAttr fd s).1 = (drawFrom Config.getAttrAnswer s.env.getAttrs s.env.draws).1 := rfl
@[simp] theorem envSetAttr_fst (fd : Nat) (a : DeviceAttr) (s : State) :
    (envSetAttr fd a s).1 = (drawFrom Config.setAttrAnswer s.env.setAttrs s.env.draws).1 := rfl
@[simp] theorem envPoll_fst (dir : Dir) (t : Word) (s : State) :
    (envPoll dir t s).1 = (drawFrom Config.pollAnswer s.env.polls s.env.draws).1 := rfl
@[simp] theorem envClose_fst (s : State) : (envClose s).1 = (drawFrom Config.closeAnswer s.env.closes s.env.draws).1 := rfl

@[simp] theorem drawFrom_cons {α : Type} (free : Nat → α) (a : α) (rest : List α) (n : Nat) :
    drawFrom free (a :: rest) n = (a, rest, n) := rfl
@[simp] theorem drawFrom_nil {α : Type} (free : Nat → α) (n : Nat) : drawFrom free [] n = (free n, [], n + 1) := rfl

/-- Asking the environment changes the answers left and the ghost trace, nothing else. -/
theorem envOpen_snd (s : State) : ∃ env, (envOpen s).2 = s.asked env (.openDev s.session.dev (envOpen s).1) := ⟨_, rfl⟩
theorem envGetAttr_snd (fd : Nat) (s : State) :
    ∃ env, (envGetAttr fd s).2 = s.asked env (.getAttr fd (envGetAttr fd s).1) := ⟨_, rfl⟩
theorem envSetAttr_snd (fd : Nat) (a : DeviceAttr) (s : State) :
    ∃ env, (envSetAttr fd a s).2 = s.asked env (.setAttr fd a (envSetAttr fd a s).1) := ⟨_, rfl⟩
theorem envPoll_snd (dir : Dir) (t : Word) (s : State) :
    ∃ env, (envPoll dir t s).2 = s.asked env (.poll dir s.fd t (envPoll dir t s).1) := ⟨_, rfl⟩
theorem envWrite_snd (bytes : List Byte) (s : State) :
    ∃ env, (envWrite bytes s).2 = s.asked env (.xferWrite s.fd bytes (envWrite bytes s).1) := ⟨_, rfl⟩
theorem envRead_snd (n : Nat) (s : State) :
    ∃ env, (envRead n s).2 = s.asked env (.xferRead s.fd n (envRead n s).1) := ⟨_, rfl⟩
theorem envClose_snd (s : State) : ∃ env, (envClose s).2 = s.asked env (.close s.fd (envClose s).1) := ⟨_, rfl⟩

/-- R11: an answer to `EnvXfer(Write, …)` never says more than was offered. -/
theorem envWrite_moved_le {bytes : List Byte} {s : State} {k : Nat} (h : (envWrite bytes s).1 = .moved k) :
    k ≤ bytes.length := by
  simp only [envWrite] at h
  cases hd : (drawFrom Config.writeAnswer s.env.writes s.env.draws).1 <;> rw [hd] at h <;>
    simp [WriteAnswer.bounded] at h
  omega

/-- R11: an answer to `EnvXfer(Read, …)` never carries more bytes than were asked for. -/
theorem envRead_moved_le {n : Nat} {s : State} {bytes : List Byte} (h : (envRead n s).1 = .moved bytes) :
    bytes.length ≤ n := by
  simp only [envRead] at h
  cases hd : (drawFrom Config.readAnswer s.env.reads s.env.draws).1 <;> rw [hd] at h <;>
    simp [ReadAnswer.bounded] at h
  subst h
  simp

end Sys2Proof.Machine
end

