-- ==== Sys2Proof/Laws/Memory.lean ====
section
/-! SUPPORT. The packet buffers: read after write, what a store leaves alone, the canonical form kept, and what `memRead` and
`memWrite` answer (20_memory.md R60 to R66). -/

namespace Sys2Proof.Machine

@[simp] theorem Memory.read?_nil (off : Nat) : Memory.read? [] off = none := rfl

theorem Memory.read?_cons (k : Nat) (v : Byte) (m : Memory) (off : Nat) :
    Memory.read? ((k, v) :: m) off = if k = off then some v else Memory.read? m off := rfl

/-- Reading after a write of one byte. -/
theorem Memory.read?_write (m : Memory) (off : Nat) (v : Byte) (a : Nat) :
    Memory.read? (Memory.write m off v) a = if a = off then some v else Memory.read? m a := by
  induction m with
  | nil => simp [Memory.write, Memory.read?_cons, eq_comm]
  | cons c rest ih =>
    obtain ⟨k, w⟩ := c
    simp only [Memory.write]
    split_ifs <;> simp only [Memory.read?_cons, ih] <;> split_ifs <;> first | rfl | omega

/-- Reading after a store: the stored bytes at their offsets, every other offset as before. -/
theorem Memory.read?_store (m : Memory) (off : Nat) (bytes : List Byte) (a : Nat) :
    Memory.read? (Memory.store m off bytes) a =
      if off ≤ a ∧ a < off + bytes.length then bytes[a - off]? else Memory.read? m a := by
  induction bytes generalizing m off with
  | nil =>
    simp only [Memory.store, List.length_nil, Nat.add_zero]
    split_ifs with h
    · omega
    · rfl
  | cons b bs ih =>
    simp only [Memory.store, ih, Memory.read?_write, List.length_cons]
    rcases Nat.lt_trichotomy a off with h | h | h
    · simp [show ¬ off + 1 ≤ a by omega, show ¬ off ≤ a by omega, show a ≠ off by omega]
    · subst h; simp
    · obtain ⟨d, rfl⟩ : ∃ d, a = off + 1 + d := ⟨a - off - 1, by omega⟩
      have e1 : off + 1 + d - off = d + 1 := by omega
      have e2 : off + 1 + d - (off + 1) = d := by omega
      simp only [e1, e2, List.getElem?_cons_succ]
      split_ifs <;> first | rfl | omega

/-- The entries of a write are the written one and entries of the buffer. -/
theorem Memory.mem_write {m : Memory} {off : Nat} {v : Byte} {c : Host.Cell} (h : c ∈ Memory.write m off v) :
    c = (off, v) ∨ c ∈ m := by
  induction m with
  | nil => simpa [Memory.write] using h
  | cons d rest ih =>
    obtain ⟨k, w⟩ := d
    simp only [Memory.write] at h
    split_ifs at h with h1 h2
    · simpa using h
    · rcases List.mem_cons.mp h with h | h
      · exact .inl h
      · exact .inr (List.mem_cons_of_mem _ h)
    · rcases List.mem_cons.mp h with h | h
      · exact .inr (by simp [h])
      · rcases ih h with h | h
        · exact .inl h
        · exact .inr (List.mem_cons_of_mem _ h)

/-- A write inside the packet keeps the canonical form. -/
theorem Memory.wf_write {m : Memory} {off : Nat} {v : Byte} (hm : Memory.wf m) (ho : off < pktLen) :
    Memory.wf (Memory.write m off v) := by
  refine ⟨?_, fun c hc => ?_⟩
  · have hp := hm.1
    clear hm
    induction m with
    | nil => simp [Memory.write]
    | cons d rest ih =>
      obtain ⟨k, w⟩ := d
      rw [List.pairwise_cons] at hp
      simp only [Memory.write]
      split_ifs with h1 h2
      · rw [List.pairwise_cons, List.pairwise_cons]
        refine ⟨fun a ha => ?_, hp⟩
        rcases List.mem_cons.mp ha with rfl | ha
        · exact h1
        · exact lt_trans h1 (hp.1 a ha)
      · rw [List.pairwise_cons]
        exact ⟨fun a ha => by have := hp.1 a ha; simp only at this ⊢; omega, hp.2⟩
      · rw [List.pairwise_cons]
        refine ⟨fun a ha => ?_, ih hp.2⟩
        rcases Memory.mem_write ha with rfl | ha
        · simp only; omega
        · exact hp.1 a ha
  · rcases Memory.mem_write hc with rfl | hc
    · exact ho
    · exact hm.2 c hc

/-- A store inside the packet keeps the canonical form. -/
theorem Memory.wf_store {m : Memory} {off : Nat} {bytes : List Byte} (hm : Memory.wf m)
    (ho : off + bytes.length ≤ pktLen) : Memory.wf (Memory.store m off bytes) := by
  induction bytes generalizing m off with
  | nil => exact hm
  | cons b bs ih =>
    simp only [List.length_cons] at ho
    exact ih (Memory.wf_write hm (by omega)) (by omega)

/-- `memWrite` inside the packet stores; past offset 8 it faults. -/
theorem memWrite_eq_next {m : Memory} {off : Nat} {bytes : List Byte} (h : off + bytes.length ≤ pktLen) :
    memWrite m off bytes = .next (Memory.store m off bytes) := if_pos h

/-- Whatever `memWrite` answers keeps the canonical form. -/
theorem memWrite_wf {m m' : Memory} {off : Nat} {bytes : List Byte} (hm : Memory.wf m)
    (h : memWrite m off bytes = .next m') : Memory.wf m' := by
  unfold memWrite at h
  split_ifs at h with ho
  cases h
  exact Memory.wf_store hm ho

/-- Bytes that are all written are read, in order. -/
theorem readBytes_eq_next {m : Memory} {off n : Nat} {bytes : List Byte} (hl : bytes.length = n)
    (h : ∀ i < n, Memory.read? m (off + i) = bytes[i]?) : readBytes m off n = .next bytes := by
  induction n generalizing off bytes with
  | zero => simp [List.length_eq_zero_iff.mp hl, readBytes]
  | succ n ih =>
    cases bytes with
    | nil => simp at hl
    | cons b bs =>
      have h0 : Memory.read? m off = some b := by simpa using h 0 (by omega)
      have hr : readBytes m (off + 1) n = .next bs := by
        refine ih (by simpa using hl) fun i hi => ?_
        have := h (i + 1) (by omega)
        simpa [Nat.add_assoc, Nat.add_comm 1 i] using this
      simp [readBytes, h0, hr, thenDo]

/-- A read of bytes that answers at all answers the written bytes. -/
theorem readBytes_spec {m : Memory} {off n : Nat} {bytes : List Byte} (h : readBytes m off n = .next bytes) :
    bytes.length = n ∧ ∀ i < n, Memory.read? m (off + i) = bytes[i]? := by
  induction n generalizing off bytes with
  | zero => simp only [readBytes, Host.Outcome.next.injEq] at h; subst h; simp
  | succ n ih =>
    simp only [readBytes] at h
    cases h0 : Memory.read? m off with
    | none => simp [h0] at h
    | some b =>
      cases hr : readBytes m (off + 1) n with
      | fault r => simp [h0, hr, thenDo] at h
      | refused r => simp [h0, hr, thenDo] at h
      | next bs =>
        simp only [h0, hr, thenDo, Host.Outcome.next.injEq] at h
        subst h
        obtain ⟨hl, hb⟩ := ih hr
        refine ⟨by simp [hl], fun i hi => ?_⟩
        cases i with
        | zero => simpa using h0
        | succ i =>
          have := hb i (by omega)
          simpa [Nat.add_assoc, Nat.add_comm 1 i] using this

/-- What `memRead` answers. -/
theorem memRead_spec {m : Memory} {off n : Nat} {bytes : List Byte} (h : memRead m off n = .next bytes) :
    off + n ≤ pktLen ∧ bytes.length = n ∧ ∀ i < n, Memory.read? m (off + i) = bytes[i]? := by
  unfold memRead at h
  split_ifs at h with ho
  exact ⟨ho, readBytes_spec h⟩

/-- A buffer that holds a packet is read as that packet. -/
theorem readPacket_eq_next {m : Memory} {p : Packet} (h : ∀ off < pktLen, Memory.read? m off = p.get? off) :
    readPacket m = .next p := by
  have hr : memRead m 0 pktLen = .next p.toList := by
    rw [memRead, if_pos (by omega)]
    exact readBytes_eq_next rfl fun i hi => by simpa [Packet.get?] using h i hi
  simp [readPacket, hr, thenDo, Packet.toList, Packet.ofList]

/-- A buffer that holds a packet gives the rest of it from any offset. -/
theorem memRead_packet {m : Memory} {p : Packet} {off : Nat} (ho : off ≤ pktLen)
    (h : ∀ a < pktLen, Memory.read? m a = p.get? a) :
    memRead m off (pktLen - off) = .next (p.toList.drop off) := by
  rw [memRead, if_pos (by omega)]
  refine readBytes_eq_next (by simp [Packet.toList, pktLen]) fun i hi => ?_
  rw [h _ (by omega)]
  simp [Packet.get?]

end Sys2Proof.Machine
end

