-- ==== Sys2Proof/Laws/PerInstr.lean ====
section
/-! SUPPORT. Families of statements made per instruction (LAWS.json). -/

namespace Sys2Proof.Laws

/-- The length of an instruction's encoding: nine bytes for a packet (R90), one for a host command (R98). -/
def EncodingLength.Statement (i : Instr) : Prop :=
  (encode i).length =
    match i with
    | .readGasReq => 9
    | .calZeroReq => 9
    | .calSpanReq _ _ => 9
    | .readGasResp _ _ _ => 9
    | .readGas => 1
    | .calZero => 1
    | .calSpan => 1

theorem EncodingLength.readGasReq : EncodingLength.Statement .readGasReq := rfl
theorem EncodingLength.calZeroReq : EncodingLength.Statement .calZeroReq := rfl
theorem EncodingLength.calSpanReq (span : Half) (checksum : Byte) :
    EncodingLength.Statement (.calSpanReq span checksum) := rfl
theorem EncodingLength.readGasResp (concentration : Half) (reserved : BitVec 32) (checksum : Byte) :
    EncodingLength.Statement (.readGasResp concentration reserved checksum) := rfl
theorem EncodingLength.readGas : EncodingLength.Statement .readGas := rfl
theorem EncodingLength.calZero : EncodingLength.Statement .calZero := rfl
theorem EncodingLength.calSpan : EncodingLength.Statement .calSpan := rfl

end Sys2Proof.Laws
end

