-- ==== Sys2Proof/Laws/Session.lean ====
section
/-! SUPPORT. What each shared operation of a session can do, said once: the end of a session, CONFIGURE, a pass of a transfer,
one transition. -/

namespace Sys2Proof.Machine

open Sys2Proof.Config

/-- An event that is none of the kinds the ghost counters and the budget count. -/
def Event.isQuiet (e : Event) : Prop :=
  e.isTransfer = false ∧ e.isOpened = false ∧ e.isClose = false ∧ e.isShortfall = false

@[simp] theorem Event.isQuiet_getAttr (fd : Nat) (a : GetAttrAnswer) : (Event.getAttr fd a).isQuiet :=
  ⟨rfl, rfl, rfl, rfl⟩
@[simp] theorem Event.isQuiet_setAttr (fd : Nat) (attr : DeviceAttr) (a : Ack) : (Event.setAttr fd attr a).isQuiet :=
  ⟨rfl, rfl, rfl, rfl⟩

/-- The end of a session (R239, R255, R300): without a descriptor no close is issued; with one, exactly one is, and a failing
close turns Done into Failed(CloseError). -/
theorem closeAndFinish_cases (target : SessionState) (why : Reason) (s : State) :
    (s.fdOpen = false ∧ closeAndFinish target why s = finish target why s) ∨
    (s.fdOpen = true ∧ ∃ env a, (envClose s).1 = a ∧
      closeAndFinish target why s =
        finish (if a = .fail ∧ target = .done then .failed else target)
          (if a = .fail ∧ target = .done then .closeError else why) (s.asked env (.close s.fd a)).closed) := by
  cases hf : s.fdOpen with
  | false => exact .inl ⟨rfl, by simp [closeAndFinish, hf]⟩
  | true =>
    refine .inr ⟨rfl, ?_⟩
    obtain ⟨env, he⟩ := envClose_snd s
    refine ⟨env, _, rfl, ?_⟩
    simp only [closeAndFinish, hf, if_true, he]
    split_ifs <;> rfl

/-- The end of a session that holds no descriptor, written out. -/
theorem closeAndFinish_of_not_open {s : State} (h : s.fdOpen = false) (target : SessionState) (why : Reason) :
    closeAndFinish target why s = { s with state := target, reason := why, running := false, progress := .ready } := by
  rw [closeAndFinish, if_neg (by simp [h])]
  rfl

/-- The end of a session that holds the descriptor, written out (R255). -/
theorem closeAndFinish_of_open {s : State} (h : s.fdOpen = true) (target : SessionState) (why : Reason) :
    closeAndFinish target why s =
      { s with
        state := if (envClose s).1 = .fail ∧ target = .done then .failed else target
        reason := if (envClose s).1 = .fail ∧ target = .done then .closeError else why
        fdOpen := false, closes := s.closes + 1, running := false, progress := .ready
        env := (envClose s).2.env, trace := .close s.fd (envClose s).1 :: s.trace } := by
  simp only [closeAndFinish, h, if_true]
  split_ifs <;> rfl

/-- A session that ends is over: it no longer runs, it holds no descriptor. -/
theorem closeAndFinish_ends (target : SessionState) (why : Reason) (s : State) :
    (closeAndFinish target why s).running = false ∧ (closeAndFinish target why s).fdOpen = false
      ∧ (closeAndFinish target why s).progress = .ready := by
  rcases closeAndFinish_cases target why s with ⟨hf, h⟩ | ⟨_, env, a, _, h⟩ <;> rw [h] <;> simp [*]

/-- CONFIGURE changes `ATTR` and asks the environment for attributes only, on its own descriptor (R180, R182). -/
theorem configure_frame (fd : Nat) (baud : Word) (dir dataBits parity stopBits : Byte) (s : State) :
    ∃ attr env evs, (∀ e ∈ evs, Event.isQuiet e) ∧ (∀ e ∈ evs, e.descriptor = some fd) ∧
      (configure fd baud dir dataBits parity stopBits s).2 = { s with attr := attr, env := env, trace := evs ++ s.trace } := by
  unfold configure
  cases lookupBaud baud with
  | none => exact ⟨s.attr, s.env, [], by simp, by simp, rfl⟩
  | some code =>
    simp only
    split_ifs
    · exact ⟨s.attr, s.env, [], by simp, by simp, rfl⟩
    · obtain ⟨env, he⟩ := envGetAttr_snd fd s
      cases hq : envGetAttr fd s with
      | mk a s' =>
        rw [hq] at he
        simp only at he
        subst he
        cases a with
        | fail => exact ⟨s.attr, env, [_], by simp, by simp [Event.descriptor], rfl⟩
        | ok attr =>
          simp only [editAndWrite]
          cases (editAttr layout code (Direction.ofCode dir) dataBits parity stopBits attr).2 with
          | some why =>
            exact ⟨_, env, [_], by simp, by simp [Event.descriptor], rfl⟩
          | none =>
            exact ⟨_, _, [_, _], by simp, by simp [Event.descriptor], rfl⟩

/-- With the direction a session passes, CONFIGURE is never the no-op (R183). -/
theorem configureSession_ne_noOp (s : State) : (configureSession s).1 ≠ .noOp := by
  unfold configureSession configure
  cases lookupBaud s.session.baud with
  | none => simp
  | some code =>
    have hd : nothingRequested (Direction.ofCode 3#8) s.session.dataBits s.session.parity s.session.stopBits = false := by
      simp [nothingRequested, Direction.ofCode]
    simp only [hd]
    cases envGetAttr s.fd s with
    | mk a s' =>
      cases a with
      | fail => simp
      | ok attr =>
        simp only [editAndWrite, writeAttr]
        cases (editAttr layout code (Direction.ofCode 3#8) s.session.dataBits s.session.parity s.session.stopBits attr).2 with
        | some why => simp
        | none => simp only [Bool.false_eq_true, if_false]; split_ifs <;> simp

/-- How a pass of a transfer leaves the state, apart from `MOVED` and `RXBUF`: the environment has been asked, and the pass
has failed exactly when the newest request was a shortfall. -/
structure PassFrame (dir : Dir) (length : Nat) (s : State) (status : XferStatus) (s' : State) : Prop where
  frame : ∃ env evs k rx, s' = { s with env := env, trace := evs ++ s.trace, moved := s.moved + k, rxbuf := rx }
    ∧ s.moved + k ≤ length
    ∧ (∀ e ∈ evs, e.isTransfer = true ∧ e.isOpened = false ∧ e.isClose = false)
    ∧ ((∃ why m, status = .failed why m) → evs.countP Event.isShortfall = 1 ∧ k = 0 ∧ rx = s.rxbuf)
    ∧ ((∀ why m, status ≠ .failed why m) → evs.countP Event.isShortfall = 0)
    ∧ (status = .continuing → s.moved + k < length)
    ∧ (∀ n, status = .full n → s.moved + k = length ∧ n = length)
    ∧ (dir = .write → rx = s.rxbuf)
    ∧ (dir = .read → ∃ bytes, bytes.length = k ∧ rx = Memory.store s.rxbuf s.moved bytes)
    ∧ ∀ e ∈ evs, e.descriptor = some s.fd

/-- Asking whether the device is ready changes nothing a pass depends on. -/
theorem waitThenTransfer_cases (dir : Dir) (length : Nat) (t : Word) (s : State) :
    (∃ env why, (waitThenTransfer dir length t s = .next (.failed why s.moved, s.asked env (.poll dir s.fd t .fatal)))
        ∧ why = .waitFailed)
    ∨ (∃ env why, (waitThenTransfer dir length t s = .next (.failed why s.moved, s.asked env (.poll dir s.fd t .timedOut)))
        ∧ why = .deadlineExceeded)
    ∨ ∃ env, waitThenTransfer dir length t s = transferOnce dir length (s.asked env (.poll dir s.fd t .ready)) := by
  obtain ⟨env, he⟩ := envPoll_snd dir t s
  unfold waitThenTransfer
  cases hq : envPoll dir t s with
  | mk a s' =>
    rw [hq] at he
    simp only at he
    subst he
    cases a with
    | fatal => exact .inl ⟨env, _, rfl, rfl⟩
    | timedOut => exact .inr (.inl ⟨env, _, rfl, rfl⟩)
    | ready => exact .inr (.inr ⟨env, rfl⟩)

/-- One `EnvXfer(Write, …)`, with `TXBUF` readable (R203, R204). -/
theorem writeOnce_frame {length : Nat} {s : State} {bytes : List Byte}
    (hr : memRead s.txbuf s.moved (length - s.moved) = .next bytes) (hm : s.moved < length) :
    ∃ status s', writeOnce length s = .next (status, s') ∧ PassFrame .write length s status s' := by
  obtain ⟨-, hl, -⟩ := memRead_spec hr
  obtain ⟨env, he⟩ := envWrite_snd bytes s
  simp only [writeOnce, hr, thenDo]
  cases hq : envWrite bytes s with
  | mk a s' =>
    have hle := @envWrite_moved_le bytes s
    rw [hq] at he hle
    simp only at he hle
    subst he
    cases a with
    | again =>
      refine ⟨_, _, rfl, ⟨env, [_], 0, s.rxbuf, rfl, by omega, ?_⟩⟩
      simp [Event.isTransfer, Event.isOpened, Event.isClose, Event.isShortfall, Event.descriptor, hm]
    | fatal =>
      refine ⟨_, _, rfl, ⟨env, [_], 0, s.rxbuf, rfl, by omega, ?_⟩⟩
      simp [Event.isTransfer, Event.isOpened, Event.isClose, Event.isShortfall, Event.descriptor]
    | moved k =>
      have hk := hle rfl
      refine ⟨_, _, rfl, ⟨env, [_], k, s.rxbuf, rfl, by omega, ?_⟩⟩
      have h1 : s.moved + k ≤ length := by omega
      by_cases hc : s.moved + k < length
      · simp [Event.isTransfer, Event.isOpened, Event.isClose, Event.isShortfall, Event.descriptor, hc]
      · simp [Event.isTransfer, Event.isOpened, Event.isClose, Event.isShortfall, Event.descriptor, hc]
        omega

/-- One `EnvXfer(Read, …)` inside the packet (R203, R205). -/
theorem readOnce_frame {length : Nat} {s : State} (hl : length ≤ pktLen) (hm : s.moved < length) :
    ∃ status s', readOnce length s = .next (status, s') ∧ PassFrame .read length s status s' := by
  obtain ⟨env, he⟩ := envRead_snd (length - s.moved) s
  simp only [readOnce]
  cases hq : envRead (length - s.moved) s with
  | mk a s' =>
    have hle := @envRead_moved_le (length - s.moved) s
    rw [hq] at he hle
    simp only at he hle
    subst he
    cases a with
    | again =>
      refine ⟨_, _, rfl, ⟨env, [_], 0, s.rxbuf, rfl, by omega, ?_⟩⟩
      simp [Event.isTransfer, Event.isOpened, Event.isClose, Event.isShortfall, Event.descriptor, hm, Memory.store]
    | fatal =>
      refine ⟨_, _, rfl, ⟨env, [_], 0, s.rxbuf, rfl, by omega, ?_⟩⟩
      simp [Event.isTransfer, Event.isOpened, Event.isClose, Event.isShortfall, Event.descriptor, Memory.store]
    | moved bytes =>
      have hk := hle rfl
      simp only [State.asked_rxbuf, State.asked_moved]
      rw [memWrite_eq_next (by omega)]
      refine ⟨_, _, rfl, ⟨env, [_], bytes.length, Memory.store s.rxbuf s.moved bytes, rfl, by omega, ?_⟩⟩
      by_cases hc : s.moved + bytes.length < length
      · simp [Event.isTransfer, Event.isOpened, Event.isClose, Event.isShortfall, Event.descriptor, hc]
        exact ⟨bytes, rfl, rfl⟩
      · simp [Event.isTransfer, Event.isOpened, Event.isClose, Event.isShortfall, Event.descriptor, hc]
        exact ⟨by omega, bytes, rfl, rfl⟩

/-- The frame of a pass that began with a readiness check answered `Ready`. -/
theorem PassFrame.after_poll {dir : Dir} {length : Nat} {s s' : State} {status : XferStatus} {env : Env} {t : Word}
    (h : PassFrame dir length (s.asked env (.poll dir s.fd t .ready)) status s') : PassFrame dir length s status s' := by
  obtain ⟨env', evs, k, rx, rfl, h1, h2, h3, h4, h5, h6, h7, h8, h9⟩ := h.frame
  refine ⟨env', evs ++ [.poll dir s.fd t .ready], k, rx, by simp, h1, ?_, ?_, ?_, h5, h6, h7, h8, ?_⟩
  · intro e he
    rcases List.mem_append.mp he with he | he
    · exact h2 e he
    · simp only [List.mem_singleton] at he
      subst he
      simp [Event.isTransfer, Event.isOpened, Event.isClose]
  · intro hf
    obtain ⟨a, b, c⟩ := h3 hf
    exact ⟨by simp [List.countP_append, a, Event.isShortfall], b, c⟩
  · intro hf
    simp [List.countP_append, h4 hf, Event.isShortfall]
  · intro e he
    rcases List.mem_append.mp he with he | he
    · exact h9 e he
    · rw [List.mem_singleton.mp he]
      rfl

/-- The frame of a pass that its readiness check ended. -/
theorem PassFrame.of_poll_failed {dir : Dir} {length : Nat} {s : State} {env : Env} {t : Word} {why : IoErr} {m : Nat}
    {a : PollAnswer} (ha : a ≠ .ready) (hm : s.moved < length) :
    PassFrame dir length s (.failed why m) (s.asked env (.poll dir s.fd t a)) := by
  refine ⟨env, [_], 0, s.rxbuf, rfl, by omega, ?_⟩
  cases a <;> simp_all [Event.isTransfer, Event.isOpened, Event.isClose, Event.isShortfall, Event.descriptor, Memory.store]

/-- One pass of XFER_WRITE's loop with `TXBUF` readable: it answers, and within this frame (R203, R204, R208). -/
theorem transferPass_write {length : Nat} {t : Word} {s : State} {bytes : List Byte}
    (hr : memRead s.txbuf s.moved (length - s.moved) = .next bytes) (hm : s.moved < length) :
    ∃ status s', transferPass .write length t s = .next (status, s') ∧ PassFrame .write length s status s' := by
  simp only [transferPass, hm, if_true]
  split_ifs with h1 h2
  · exact writeOnce_frame hr hm
  · cases h2
  · rcases waitThenTransfer_cases .write length t s with ⟨env, why, h, -⟩ | ⟨env, why, h, -⟩ | ⟨env, h⟩
    · exact ⟨_, _, h, .of_poll_failed (by simp) hm⟩
    · exact ⟨_, _, h, .of_poll_failed (by simp) hm⟩
    · rw [h]
      obtain ⟨st, s', hw, hp⟩ := writeOnce_frame (s := s.asked env (.poll .write s.fd t .ready)) hr hm
      exact ⟨st, s', hw, hp.after_poll⟩

/-- One pass of XFER_READ's loop: it answers, and within this frame (R203, R205, R208). -/
theorem transferPass_read {length : Nat} {t : Word} {s : State} (hl : length ≤ pktLen) (hm : s.moved < length) :
    ∃ status s', transferPass .read length t s = .next (status, s') ∧ PassFrame .read length s status s' := by
  simp only [transferPass, hm, if_true]
  split_ifs with h1 h2
  · exact readOnce_frame hl hm
  · cases h2
  · rcases waitThenTransfer_cases .read length t s with ⟨env, why, h, -⟩ | ⟨env, why, h, -⟩ | ⟨env, h⟩
    · exact ⟨_, _, h, .of_poll_failed (by simp) hm⟩
    · exact ⟨_, _, h, .of_poll_failed (by simp) hm⟩
    · rw [h]
      obtain ⟨st, s', hw, hp⟩ := readOnce_frame (s := s.asked env (.poll .read s.fd t .ready)) hl hm
      exact ⟨st, s', hw, hp.after_poll⟩

/-- A pass whose readiness check lets it go on is its underlying transfer, begun after the check (R203). -/
theorem transferPass_readied {dir : Dir} {length m : Nat} {s s' : State} (hd : dir ≠ .other) (hm : m < length)
    (h : s.readied dir s') :
    transferPass dir length s.session.timeoutS { s with moved := m, progress := .moving } =
      transferOnce dir length { s' with moved := m, progress := .moving } := by
  rcases h with ⟨ht, rfl⟩ | ⟨ht, hp, rfl⟩
  · simp only [transferPass, hm, if_true, ht]
  · have hq : envPoll dir s.session.timeoutS { s with moved := m, progress := .moving } =
        (.ready, { s with moved := m, progress := .moving, env := (envPoll dir s.session.timeoutS s).2.env
                          trace := .poll dir s.fd s.session.timeoutS .ready :: s.trace }) := by
      rw [← hp]; rfl
    simp only [transferPass, hm, if_true, if_neg ht, if_neg hd, waitThenTransfer, hq]

/-- A pass whose readiness check fails has failed, and has made no transfer (R203, R208). -/
theorem transferPass_unready {dir : Dir} {length m : Nat} {s s' : State} {why : IoErr} (hd : dir ≠ .other)
    (hm : m < length) (h : s.unready dir s' why) :
    transferPass dir length s.session.timeoutS { s with moved := m, progress := .moving } =
      .next (.failed why m, { s' with moved := m, progress := .moving }) := by
  obtain ⟨ht, a, hp, hw, rfl⟩ := h
  have hq : envPoll dir s.session.timeoutS { s with moved := m, progress := .moving } =
      (a, { s with moved := m, progress := .moving, env := (envPoll dir s.session.timeoutS s).2.env
                   trace := .poll dir s.fd s.session.timeoutS a :: s.trace }) := by
    rw [← hp]; rfl
  simp only [transferPass, hm, if_true, if_neg ht, if_neg hd, waitThenTransfer, hq]
  rcases hw with ⟨rfl, rfl⟩ | ⟨rfl, rfl⟩ <;> rfl

/-- A readiness check changes the environment and the trace only. -/
theorem State.readied_frame {dir : Dir} {s s' : State} (h : s.readied dir s') :
    s' = { s with env := s'.env, trace := s'.trace } := by
  rcases h with ⟨_, rfl⟩ | ⟨_, _, rfl⟩ <;> rfl

/-- A failed readiness check changes the environment and the trace only. -/
theorem State.unready_frame {dir : Dir} {s s' : State} {why : IoErr} (h : s.unready dir s' why) :
    s' = { s with env := s'.env, trace := s'.trace } := by
  obtain ⟨_, a, _, _, rfl⟩ := h
  rfl

/-- BUILD into `TXBUF` always answers (R247). -/
theorem armRequest_eq (p : Packet) (s : State) :
    armRequest p s = .next { s with txbuf := Memory.store s.txbuf 0 p.toList, remain := s.session.tries,
                                     progress := .looping } := by
  have : memWrite s.txbuf 0 p.toList = .next (Memory.store s.txbuf 0 p.toList) :=
    memWrite_eq_next (by simp [Packet.toList, pktLen])
  simp [armRequest, this, thenDo]

/-- After a BUILD the buffer reads as the packet. -/
theorem read?_store_packet (m : Memory) (p : Packet) {off : Nat} (h : off < pktLen) :
    Memory.read? (Memory.store m 0 p.toList) off = p.get? off := by
  have hl : p.toList.length = pktLen := rfl
  rw [Memory.read?_store, if_pos ⟨Nat.zero_le _, by omega⟩]
  simp [Packet.get?]

end Sys2Proof.Machine
end

