-- ==== Sys2Proof/Laws/Step.lean ====
section
/-! SUPPORT. What a step of a resting unit can be, what a host command means, how a transfer begins, and runs of the core one
step at a time. -/

namespace Sys2Proof.Machine

open Sys2Proof.Config

/-- The instruction a command code stands for has that code, and no other instruction has (R98). -/
theorem commandInstr_eq_some_iff {code : Byte} {i : Instr} : commandInstr code = some i ↔ commandCode i = some code := by
  simp only [commandInstr, decode, decodeCommand]
  split_ifs with h1 h2 h3
  · subst h1; cases i <;> simp [Except.toOption, commandCode]
  · subst h2; cases i <;> simp [Except.toOption, commandCode]
  · subst h3; cases i <;> simp [Except.toOption, commandCode]
  · cases i <;> simp_all [Except.toOption, commandCode] <;> (intro h; simp_all)

/-- A host command is the session with its code (R240 to R242). -/
theorem exec_of_commandCode {i : Instr} {code : Byte} (h : commandCode i = some code) (s : State) :
    exec i s = session code s := by
  cases i <;> simp [commandCode] at h <;> subst h <;> rfl

/-- A host call is the session with the code in `CMD`, whether a row stands for it or not (R230, R243). -/
theorem hostCall_eq_session (s : State) : hostCall s = session s.cfg.cmd s := by
  unfold hostCall
  cases hc : commandInstr s.cfg.cmd with
  | none => rfl
  | some i => exact exec_of_commandCode (commandInstr_eq_some_iff.mp hc) s

/-- A step of a resting unit: nothing, one register written, or a session started. -/
theorem step_of_resting {s t : State} (hr : s.running = false) (h : step s = .next t) :
    (s.host = [] ∧ t = s)
    ∨ (∃ a rest, s.host = a :: rest ∧ a ≠ .processCommand ∧ s.busy = false
        ∧ t = { s with host := rest, cfg := a.write s.cfg })
    ∨ ∃ rest, s.host = .processCommand :: rest ∧ s.busy = false ∧ s.cfg.tries ≠ 0
        ∧ t = started s.cfg.cmd { s with host := rest } := by
  rw [step, if_neg (by simp [hr])] at h
  unfold hostTurn at h
  cases hh : s.host with
  | nil =>
    rw [hh] at h
    cases h
    exact .inl ⟨rfl, rfl⟩
  | cons a rest =>
    rw [hh] at h
    simp only at h
    split_ifs at h with ha
    · subst ha
      rw [hostCall_eq_session, session, if_neg (by simp [hr]), startSession] at h
      split_ifs at h with h1 h2
      cases h
      exact .inr (.inr ⟨rest, rfl, (Bool.not_eq_true _).mp h1, h2, rfl⟩)
    · unfold hostWrite at h
      split_ifs at h with h1
      cases h
      exact .inr (.inl ⟨a, rest, rfl, ha, (Bool.not_eq_true _).mp h1, rfl⟩)

/-- A transfer in progress goes on from `MOVED`; any other begins at 0 (R37, R203). -/
theorem beginTransfer_cases (s : State) :
    ∃ m, beginTransfer s = { s with moved := m, progress := .moving }
      ∧ (s.progress = .moving ∧ m = s.moved ∨ s.progress ≠ .moving ∧ m = 0) := by
  unfold beginTransfer
  split_ifs with h
  · exact ⟨s.moved, by rw [← h], .inl ⟨h, rfl⟩⟩
  · exact ⟨0, rfl, .inr ⟨h, rfl⟩⟩

/-- The end of a session touches no register of the host's, no sample, no packet buffer, not `CONC`. -/
theorem closeAndFinish_frame (target : SessionState) (why : Reason) (s : State) :
    (closeAndFinish target why s).host = s.host ∧ (closeAndFinish target why s).cfg = s.cfg
      ∧ (closeAndFinish target why s).session = s.session ∧ (closeAndFinish target why s).conc = s.conc
      ∧ (closeAndFinish target why s).txbuf = s.txbuf ∧ (closeAndFinish target why s).rxbuf = s.rxbuf := by
  rcases closeAndFinish_cases target why s with ⟨-, h⟩ | ⟨-, env, a, -, h⟩ <;> rw [h] <;> simp

/-- A full buffer reads as some packet. -/
theorem readPacket_of_full {m : Memory} (h : Memory.full m = true) : ∃ p, readPacket m = .next p := by
  simp only [Memory.full, List.all_eq_true, List.mem_range] at h
  have g : ∀ i < pktLen, ∃ v, Memory.read? m i = some v := fun i hi => Option.isSome_iff_exists.mp (h i hi)
  obtain ⟨a0, h0⟩ := g 0 (by decide)
  obtain ⟨a1, h1⟩ := g 1 (by decide)
  obtain ⟨a2, h2⟩ := g 2 (by decide)
  obtain ⟨a3, h3⟩ := g 3 (by decide)
  obtain ⟨a4, h4⟩ := g 4 (by decide)
  obtain ⟨a5, h5⟩ := g 5 (by decide)
  obtain ⟨a6, h6⟩ := g 6 (by decide)
  obtain ⟨a7, h7⟩ := g 7 (by decide)
  obtain ⟨a8, h8⟩ := g 8 (by decide)
  refine ⟨⟨a0, a1, a2, a3, a4, a5, a6, a7, a8⟩, readPacket_eq_next fun off ho => ?_⟩
  have hlt : off < 9 := ho
  interval_cases off <;> assumption

/-- A run that takes a step. -/
theorem run_of_step_next (M : Host.Core) (n : Nat) {s t : M.State} (h : M.step s = .next t) : M.run (n + 1) s = M.run n t := by
  simp only [Host.Core.run, h]

/-- A run that stops with a fault. -/
theorem run_of_step_fault (M : Host.Core) (n : Nat) {s : M.State} {r : M.Fault} (h : M.step s = .fault r) :
    M.run (n + 1) s = .fault r := by
  simp only [Host.Core.run, h]

/-- A run that stops with a refusal. -/
theorem run_of_step_refused (M : Host.Core) (n : Nat) {s : M.State} {r : M.Refusal} (h : M.step s = .refused r) :
    M.run (n + 1) s = .refused r := by
  simp only [Host.Core.run, h]

end Sys2Proof.Machine
end

