-- ==== Sys2Proof/Tests/Slice0.lean ====
section
/-! SUPPORT. The model's own tests, expected results from spec/95_test_vectors.md (the vector is named in the comment), and one
witness for the hypotheses of every statement of Certificates/Slice0/Obligations.lean. -/

namespace Sys2Proof.Tests

open Sys2Proof.Machine Sys2Proof.Config

/-! ### Well-formedness: each check refuses an ill-formed term -/

theorem test_wellFormed_refuses_wrong_span_checksum : (Instr.calSpanReq 0x07D0 0xA1).wellFormed = false := by decide
theorem test_wellFormed_accepts_span_checksum : (Instr.calSpanReq 0x07D0 0xA0).wellFormed = true := by decide

/-! ### Decoding: words written out from the encodings of 30_encoding.md -/

/-- R91, R155, vector BD1. -/
theorem test_decode_read_gas_req : decode [0xFF, 0x01, 0x86, 0, 0, 0, 0, 0, 0x79] = .ok .readGasReq := by decide
/-- R91, R156, vector BD2. -/
theorem test_decode_cal_zero_req : decode [0xFF, 0x01, 0x87, 0, 0, 0, 0, 0, 0x78] = .ok .calZeroReq := by decide
/-- R92, R157, vector BD3. -/
theorem test_decode_cal_span_req :
    decode [0xFF, 0x01, 0x88, 0x07, 0xD0, 0, 0, 0, 0xA0] = .ok (.calSpanReq 0x07D0 0xA0) := by decide
/-- R93, vector PG20: all four reserved bytes non-zero. -/
theorem test_decode_read_gas_resp :
    decode [0xFF, 0x86, 0x13, 0x88, 0x40, 0x01, 0x02, 0x03, 0x99] = .ok (.readGasResp 0x1388 0x40010203 0x99) := by decide
/-- R98: the three command codes. -/
theorem test_decode_commands :
    decode [0x00] = .ok .readGas ∧ decode [0x01] = .ok .calZero ∧ decode [0x02] = .ok .calSpan := by decide
/-- R101, R91, R92: what is rejected, and why. -/
theorem test_decode_rejects :
    decode [0x03] = .error (.unrecognisedCommand 0x03) ∧ decode [] = .error (.badLength 0)
    ∧ decode [0xFE, 0x86, 0x02, 0x60, 0x47, 0, 0, 0, 0xD1] = .error (.badStart 0xFE)
    ∧ decode [0xFF, 0x87, 0, 0, 0, 0, 0, 0, 0x79] = .error (.badSensorIdOrCommand 0x87)
    ∧ decode [0xFF, 0x01, 0x85, 0, 0, 0, 0, 0, 0x7A] = .error (.badRequestCommand 0x85)
    ∧ decode [0xFF, 0x01, 0x86, 0, 0, 0, 0, 1, 0x78] = .error .badReserved
    ∧ decode [0xFF, 0x01, 0x87, 0, 0, 0, 0, 0, 0x79] = .error (.badFixedChecksum 0x79) := by decide
/-- The words of spec/opcode_table.json, as the table numbers them. -/
theorem test_decodeTableWord_packets :
    decodeTableWord 72 0xFF0186000000000079 = some .readGasReq
    ∧ decodeTableWord 72 0xFF0187000000000078 = some .calZeroReq
    ∧ decodeTableWord 72 0xFF018807D0000000A0 = some (.calSpanReq 0x07D0 0xA0)
    ∧ decodeTableWord 72 0xFF86026047000000D1 = some (.readGasResp 0x0260 0x47000000 0xD1) := by decide
theorem test_decodeTableWord_commands :
    decodeTableWord 8 0 = some .readGas ∧ decodeTableWord 8 1 = some .calZero ∧ decodeTableWord 8 2 = some .calSpan
    ∧ decodeTableWord 8 3 = none ∧ decodeTableWord 16 0 = none := by decide

/-! ### BaudTable, LineEncoding, PacketCodec: the spec's vectors -/

/-- Vectors LB1, LB3, LB6, LB8, LB10, LB13. -/
theorem test_lookupBaud :
    (lookupBaud 0).isSome = true ∧ (lookupBaud 134).isSome = true ∧ (lookupBaud 4000000).isSome = true
    ∧ lookupBaud 1 = none ∧ lookupBaud 9601 = none ∧ lookupBaud 4294967295 = none := by
  refine ⟨rfl, rfl, rfl, ?_, ?_, ?_⟩ <;> rfl

/-- The Linux instance of the layout (93_implementation_defined.md G1: orientation only; the model does not depend on it). -/
def linuxLayout : FlagLayout 32 :=
  { csizeMask := 0x30, cs5 := 0x00, cs6 := 0x10, cs7 := 0x20, cs8 := 0x30
    parEnable := 0x100, parOdd := 0x200, stop2 := 0x40, ignModem := 0x800, rxEnable := 0x80
    canon := 0x2, echo := 0x8, signals := 0x1
    ignModemWord := .cflag, rxEnableWord := .cflag, canonWord := .lflag, echoWord := .lflag, signalsWord := .lflag }

theorem test_linuxLayout_ok : FlagLayout.Ok linuxLayout := by
  refine ⟨by decide, ?_, by decide, ?_, ?_⟩ <;> simp [linuxLayout, layoutMembers, oneBit]

/-- The members of R130 fit in five bits: the least width the machine can have (log 12). -/
theorem test_plainLayout_five_bits : FlagLayout.Ok (plainLayout : FlagLayout 5) := plainLayout_ok (Nat.le_refl 5)

/-- Vectors DB1, DB2, DB3, DB5, DB7 (0o4275 is 0x8BD). -/
theorem test_applyDataBits :
    applyDataBits linuxLayout 5 0x8BD = some 0x88D ∧ applyDataBits linuxLayout 6 0x8BD = some 0x89D
    ∧ applyDataBits linuxLayout 7 0x8BD = some 0x8AD ∧ applyDataBits linuxLayout 4 0x8BD = none
    ∧ applyDataBits linuxLayout 9 0x8BD = none := by decide
/-- Vectors PA1, PA4, PA5, PA7, PA9, PA11, PA12 (0o5675 is 0xBBD, 0o4675 is 0x9BD). -/
theorem test_applyParity :
    applyParity linuxLayout 0x4E 0xBBD = some 0x8BD ∧ applyParity linuxLayout 0x65 0x8BD = some 0x9BD
    ∧ applyParity linuxLayout 0x4F 0x8BD = some 0xBBD ∧ applyParity linuxLayout 0x53 0xBBD = some 0x8BD
    ∧ applyParity linuxLayout 0x45 0xBBD = some 0x9BD ∧ applyParity linuxLayout 0x4D 0 = none
    ∧ applyParity linuxLayout 0xCE 0 = none := by decide
/-- Vectors SB1, SB3, SB5 (0o4375 is 0x8FD). -/
theorem test_applyStopBits :
    applyStopBits linuxLayout 10 0x8FD = some 0x8BD ∧ applyStopBits linuxLayout 20 0x8BD = some 0x8FD
    ∧ applyStopBits linuxLayout 1 0x8BD = none := by decide
/-- Vector CF1: the attributes written back (0o105073 is 0x8A3B, 0o5755 is 0xBED, 0o105060 is 0x8A30). -/
theorem test_editAttr :
    editAttr linuxLayout 13 .both 7 0x4F 20
        { iflag := 1, oflag := 2, cflag := 0x8BD, lflag := 0x8A3B, line := 4, cc := 5, ispeed := 6, ospeed := 6 }
      = ({ iflag := 1, oflag := 2, cflag := 0xBED, lflag := 0x8A30, line := 4, cc := 5, ispeed := 13, ospeed := 13 }, none) := by
  decide

/-- Vectors CK4, CK5, CK7, CK8, CK9. -/
theorem test_checksum :
    checksum (some ⟨0xFF, 1, 2, 3, 4, 5, 6, 7, 0⟩) = 0xE4
    ∧ checksum (some ⟨0xFF, 0xFF, 0xFF, 0xFF, 0xFF, 0xFF, 0xFF, 0xFF, 0⟩) = 0x07 ∧ checksum none = 0xFF
    ∧ checksum (some ⟨0xFF, 0, 0, 0, 0, 0, 0, 0, 0⟩) = 0x00 ∧ checksum (some ⟨0xFF, 1, 0, 0, 0, 0, 0, 0, 0⟩) = 0xFF := by
  decide
/-- Vectors BD5, BD11, BD12. -/
theorem test_buildCalSpan :
    buildCalSpan 0xFFFF = ⟨0xFF, 0x01, 0x88, 0xFF, 0xFF, 0, 0, 0, 0x79⟩
    ∧ buildCalSpan 0x7700 = ⟨0xFF, 0x01, 0x88, 0x77, 0x00, 0, 0, 0, 0x00⟩
    ∧ buildCalSpan 0x8000 = ⟨0xFF, 0x01, 0x88, 0x80, 0x00, 0, 0, 0, 0xF7⟩ := by decide
/-- Vectors PG1, PG12, PG16, PG8, PG22, PG23. -/
theorem test_parseGas :
    parseGas ⟨0xFF, 0x86, 0x02, 0x60, 0x47, 0, 0, 0, 0xD1⟩ = .ok 0x0260
    ∧ parseGas ⟨0, 0, 0, 0, 0, 0, 0, 0, 0⟩ = .invalid .badStart
    ∧ parseGas ⟨0xFF, 0x87, 0, 0, 0, 0, 0, 0, 0x79⟩ = .invalid .badCommand
    ∧ parseGas ⟨0xFF, 0x86, 0x02, 0x60, 0, 0, 0, 0, 0xD1⟩ = .invalid .badChecksum
    ∧ parseGas ⟨0xFF, 0x86, 0x7B, 0, 0, 0, 0, 0, 0xFF⟩ = .ok 0x7B00
    ∧ parseGas ⟨0xFF, 0x86, 0x60, 0x02, 0x47, 0, 0, 0, 0xD1⟩ = .ok 0x6002 := by decide

/-! ### States for the one-step tests and the witnesses -/

/-- The response of vector PG1. -/
def pg1 : Packet := ⟨0xFF, 0x86, 0x02, 0x60, 0x47, 0, 0, 0, 0xD1⟩

/-- Some terminal attributes. -/
def attr0 : DeviceAttr :=
  { iflag := 1, oflag := 2, cflag := 0x8BD, lflag := 0x8A3B, line := 4, cc := 5, ispeed := 6, ospeed := 6 }

/-- Line settings 9600 8N1, two attempts. -/
def cfg0 (cmd : Byte) (timeoutS : Word) : ConfigRegs :=
  { dev := 7, baud := 9600, dataBits := 8, parity := 0x4E, stopBits := 10, direction := 0, cmd := cmd, span := 0x07D0,
    tries := 2, timeoutS := timeoutS }

/-- A resting unit with a host call pending. -/
def resting (cmd : Byte) (env : Env) : State :=
  { State.reset with cfg := cfg0 cmd 0, host := [.processCommand], env := env }

/-- A running session in a state, its descriptor open, its request built, no shortfall yet. -/
def inSession (st : SessionState) (pr : Progress) (cmd : Byte) (timeoutS : Word) (env : Env) : State :=
  { State.reset with
    cfg := cfg0 cmd timeoutS, session := cfg0 cmd timeoutS, state := st, progress := pr, running := true, env := env
    fd := 3, fdOpen := true, opens := 1, remain := 2
    txbuf := Memory.store [] 0 buildReadGas.toList, rxbuf := Memory.store [] 0 pg1.toList }

def noAnswers : Env := Env.empty

theorem test_reset_memory_wf : Memory.wf State.reset.txbuf ∧ Memory.wf State.reset.rxbuf := by decide

theorem holds_store (m : Memory) (p : Packet) : Memory.holds (Memory.store m 0 p.toList) p :=
  fun _ ho => read?_store_packet m p ho

/-! ### One step of each instruction -/

/-- R155, R247. -/
theorem test_step_read_gas_req :
    ∃ t, step ((inSession .portConfigured .ready 0 0 noAnswers).withFetchWord 72 0xFF0186000000000079) = .next t
      ∧ t.txbuf.map Prod.snd = [0xFF, 0x01, 0x86, 0, 0, 0, 0, 0, 0x79] ∧ t.remain = 2 := ⟨_, rfl, by decide, by decide⟩
/-- R156. -/
theorem test_step_cal_zero_req :
    ∃ t, step ((inSession .portConfigured .ready 0 0 noAnswers).withFetchWord 72 0xFF0187000000000078) = .next t
      ∧ t.txbuf.map Prod.snd = [0xFF, 0x01, 0x87, 0, 0, 0, 0, 0, 0x78] := ⟨_, rfl, by decide⟩
/-- R157, vector BD10. -/
theorem test_step_cal_span_req :
    ∃ t, step ((inSession .portConfigured .ready 0 0 noAnswers).withFetchWord 72 0xFF01881388000000DC) = .next t
      ∧ t.txbuf.map Prod.snd = [0xFF, 0x01, 0x88, 0x13, 0x88, 0, 0, 0, 0xDC] := ⟨_, rfl, by decide⟩
/-- R254, vectors PG18 and PG10. -/
theorem test_step_read_gas_resp :
    (∃ t, step ((inSession .responseReceived .ready 0 0 { noAnswers with closes := [.ok] }).withFetchWord 72
        0xFF86FFFF000000007C) = .next t ∧ t.state = .done ∧ t.conc = 0xFFFF ∧ t.closes = 1)
    ∧ ∃ t, step ((inSession .responseReceived .ready 0 0 { noAnswers with closes := [.ok] }).withFetchWord 72
        0xFF86026047000000D0) = .next t ∧ t.state = .failed ∧ t.protoerr = .badChecksum ∧ t.conc = 0 :=
  ⟨⟨_, rfl, by decide, by decide, by decide⟩, ⟨_, rfl, by decide, by decide, by decide⟩⟩
/-- R230: the three commands placed in `CMD` start their session from reset. -/
theorem test_step_commands_start :
    (∃ t, step (State.reset.withFetchWord 8 0) = .next t ∧ t.running = true ∧ t.session.cmd = 0)
    ∧ (∃ t, step (State.reset.withFetchWord 8 1) = .next t ∧ t.running = true ∧ t.session.cmd = 1)
    ∧ ∃ t, step (State.reset.withFetchWord 8 2) = .next t ∧ t.running = true ∧ t.session.cmd = 2 :=
  ⟨⟨_, rfl, by decide, by decide⟩, ⟨_, rfl, by decide, by decide⟩, ⟨_, rfl, by decide, by decide⟩⟩
/-- Program P9: the open fails. -/
theorem test_step_open_fails :
    ∃ t, exec .readGas { inSession .idle .ready 0 0 { noAnswers with opens := [.fail] } with fdOpen := false, opens := 0 }
      = .next t ∧ t.state = .failed ∧ t.reason = .openError ∧ t.closes = 0 := ⟨_, rfl, by decide, by decide, by decide⟩
/-- Program P3: the shortfall that empties the budget. -/
theorem test_step_last_shortfall :
    ∃ t, exec .calZero { inSession .portConfigured .looping 1 2
        { noAnswers with polls := [.timedOut], closes := [.ok] } with remain := 1 } = .next t
      ∧ t.reason = .writeError ∧ t.ioerr = .deadlineExceeded ∧ t.remain = 0 ∧ t.closes = 1 :=
  ⟨_, rfl, by decide, by decide, by decide, by decide⟩
/-- Program P4: four bytes of nine are taken. -/
theorem test_step_partial_write :
    ∃ t, exec .calSpan (inSession .portConfigured .looping 2 0 { noAnswers with writes := [.moved 4] }) = .next t
      ∧ t.state = .portConfigured ∧ t.moved = 4 ∧ t.outbound = [0xFF, 0x01, 0x86, 0x00] :=
  ⟨_, rfl, by decide, by decide, by decide⟩

/-! ### Witnesses: the hypotheses of each statement are met, for each clause, at the ends of its ranges -/

theorem test_witness_DecodeOfEncode :
    (Instr.calSpanReq 0x07D0 0xA0).wellFormed = true ∧ (Instr.readGasResp 0xFFFF 0xFFFFFFFF 0xFF).wellFormed = true := by
  decide
theorem test_witness_EncodeOfDecoded :
    decode [0xFF, 0x86, 0x02, 0x60, 0x47, 0, 0, 0, 0xD1] = .ok (.readGasResp 0x0260 0x47000000 0xD1) := by decide
theorem test_witness_LookupBaudExactlyTheTable :
    (0#32 ∈ baudSet ∧ 4000000#32 ∈ baudSet) ∧ 14400#32 ∉ baudSet ∧ 4000001#32 ∉ baudSet := by decide
theorem test_witness_PlatformConstantsAdmissible : (9600#32 ∈ baudSet) ∧ speedCode 9600#32 = speedCode 9600#32 :=
  ⟨by decide, rfl⟩
theorem test_witness_DataBitsReplaceCharacterSize :
    FlagLayout.Ok linuxLayout ∧ (5#8 = 5 ∧ linuxLayout.cs5 = 0x00) ∧ (8#8 = 8 ∧ linuxLayout.cs8 = 0x30)
    ∧ (4#8 ≠ 5 ∧ 4#8 ≠ 6 ∧ 4#8 ≠ 7 ∧ 4#8 ≠ 8) ∧ (9#8 ≠ 5 ∧ 9#8 ≠ 6 ∧ 9#8 ≠ 7 ∧ 9#8 ≠ 8) :=
  ⟨test_linuxLayout_ok, by decide⟩
theorem test_witness_ParityReplacesParityBits :
    FlagLayout.Ok linuxLayout ∧ 0x4E#8 ∈ [0x4E#8, 0x6E#8, 0x53#8, 0x73#8] ∧ 0x65#8 ∈ [0x45#8, 0x65#8]
    ∧ 0x6F#8 ∈ [0x4F#8, 0x6F#8] ∧ 0x00#8 ∉ [0x4E#8, 0x6E#8, 0x53#8, 0x73#8, 0x45#8, 0x65#8, 0x4F#8, 0x6F#8] :=
  ⟨test_linuxLayout_ok, by decide⟩
theorem test_witness_StopBitsSetOneFlag :
    FlagLayout.Ok linuxLayout ∧ (10#8 = 10) ∧ (20#8 = 20) ∧ (15#8 ≠ 10 ∧ 15#8 ≠ 20) := ⟨test_linuxLayout_ok, by decide⟩
theorem test_witness_LineEncodingsCommute : FlagLayout.Ok linuxLayout := test_linuxLayout_ok
theorem test_witness_ChecksumDetectsOneByte :
    pg1.b8 = checksum (some pg1) ∧ pg1.get? 1 ≠ some 0x87 ∧ pg1.get? 8 ≠ some 0xD0 := by decide
theorem test_witness_ParseGasChecksInOrder :
    (⟨0xFE, 0x86, 0x02, 0x60, 0x47, 0, 0, 0, 0xD1⟩ : Packet).b0 ≠ 0xFF
    ∧ (⟨0xFF, 0x87, 0x02, 0x60, 0x47, 0, 0, 0, 0xD1⟩ : Packet).b1 ≠ 0x86
    ∧ (⟨0xFF, 0x86, 0x02, 0x60, 0x47, 0, 0, 0, 0xD0⟩ : Packet).b8
        ≠ checksum (some ⟨0xFF, 0x86, 0x02, 0x60, 0x47, 0, 0, 0, 0xD0⟩)
    ∧ pg1.b0 = 0xFF ∧ pg1.b1 = 0x86 ∧ pg1.b8 = checksum (some pg1) := by decide
theorem test_witness_OneByteMutationInvalid :
    parseGas pg1 = .ok 0x0260 ∧ pg1.get? 0 ≠ some 0xFE ∧ pg1.get? 1 ≠ some 0x87 ∧ pg1.get? 2 ≠ some 0x03
    ∧ pg1.get? 8 ≠ some 0xFF := by decide
theorem test_witness_ConfigureWithoutRequests : 9600#32 ∈ baudSet ∧ 14400#32 ∉ baudSet := by decide
theorem test_witness_ConfigureWritesAttributes :
    ∃ c5 c6 c7 : FlagWord, (9600#32 ∈ baudSet) ∧ (3#8).toNat ≤ 3 ∧ ¬(3#8 = 0 ∧ 8#8 = 0 ∧ 0x4E#8 = 0 ∧ 10#8 = 0)
    ∧ (envGetAttr 3 (resting 0 { noAnswers with getAttrs := [.ok attr0] })).1 = .ok attr0
    ∧ (if 8#8 = 0 then some attr0.cflag else applyDataBits layout 8 attr0.cflag) = some c5
    ∧ (if 0x4E#8 = 0 then some c5 else applyParity layout 0x4E c5) = some c6
    ∧ (if 10#8 = 0 then some c6 else applyStopBits layout 10 c6) = some c7 :=
  ⟨_, _, _, by decide, by decide, by decide, rfl, rfl, rfl, rfl⟩
theorem test_witness_RawModeTouchesFiveFlags :
    FlagLayout.Ok linuxLayout ∧ (0x30#32 &&& linuxLayout.ignModem = 0) ∧ (0x30#32 &&& linuxLayout.rxEnable = 0) :=
  ⟨test_linuxLayout_ok, by decide⟩
theorem test_witness_ConfigureFailureLeavesDevice :
    configure 3 14400 3 8 0x4E 10 State.reset = (.failed (.unsupportedBaudRate 14400), State.reset)
    ∧ ConfigFailure.unsupportedBaudRate 14400 ≠ .setAttrFailed ∧ 9600#32 ∈ baudSet
    ∧ (envGetAttr 3 (resting 0 { noAnswers with getAttrs := [.fail] })).1 = .fail := ⟨rfl, by decide, by decide, rfl⟩
theorem test_witness_ConfigureReportsFirstBadStep :
    (9600#32 ∈ baudSet) ∧ (envGetAttr 3 (resting 0 { noAnswers with getAttrs := [.ok attr0] })).1 = .ok attr0
    ∧ 3 < (4#8).toNat ∧ (9#8 ≠ 0 ∧ 9#8 ∉ [5#8, 6#8, 7#8, 8#8]) ∧ 8#8 ∈ [0#8, 5#8, 6#8, 7#8, 8#8]
    ∧ 0x58#8 ∉ [0x00#8, 0x4E#8, 0x6E#8, 0x53#8, 0x73#8, 0x45#8, 0x65#8, 0x4F#8, 0x6F#8]
    ∧ 0x4E#8 ∈ [0x00#8, 0x4E#8, 0x6E#8, 0x53#8, 0x73#8, 0x45#8, 0x65#8, 0x4F#8, 0x6F#8] ∧ 15#8 ∉ [0#8, 10#8, 20#8] :=
  ⟨by decide, rfl, by decide⟩
theorem test_witness_TransferNeverShort :
    (∃ t, performTransfer 3 .write 9 0 (inSession .portConfigured .looping 0 0
        { noAnswers with writes := [.moved 4, .again, .moved 5] }) = .next (.full 9, t))
    ∧ ∃ t, performTransfer 3 .write 9 0 (inSession .portConfigured .looping 0 0
        { noAnswers with writes := [.moved 4, .fatal] }) = .next (.failed .transferFailed 4, t) := ⟨⟨_, rfl⟩, ⟨_, rfl⟩⟩
theorem test_witness_AgainConsumesNothing :
    (inSession .portConfigured .moving 0 0 { noAnswers with writes := [.again] }).moved < 9
    ∧ memRead (inSession .portConfigured .moving 0 0 { noAnswers with writes := [.again] }).txbuf 0 9
        = .next buildReadGas.toList
    ∧ (envWrite buildReadGas.toList (inSession .portConfigured .moving 0 0 { noAnswers with writes := [.again] })).1 = .again
    ∧ (envWrite buildReadGas.toList (inSession .portConfigured .moving 0 0 { noAnswers with writes := [.moved 0] })).1
        = .moved 0
    ∧ (envRead 9 (inSession .requestSent .moving 0 0 { noAnswers with reads := [.again] })).1 = .again
    ∧ (envRead 9 (inSession .requestSent .moving 0 0 { noAnswers with reads := [.moved []] })).1 = .moved [] :=
  ⟨by decide, rfl, by decide, by decide, by decide, by decide⟩
theorem test_witness_ReadinessCheckDecidesPass :
    Dir.read ≠ .other ∧ 2#32 ≠ 0
    ∧ (envPoll .read 2 (inSession .requestSent .moving 0 2 { noAnswers with polls := [.timedOut] })).1 = .timedOut
    ∧ (envPoll .read 2 (inSession .requestSent .moving 0 2 { noAnswers with polls := [.fatal] })).1 = .fatal
    ∧ (envPoll .write 2 (inSession .portConfigured .moving 0 2 { noAnswers with polls := [.ready] })).1 = .ready := by
  decide
theorem test_witness_TransferEdgeOperands : 0 < 1 ∧ 0 < 9 ∧ 1#32 ≠ 0 := by decide
theorem test_witness_FullWriteDeliversPacket :
    Memory.holds (inSession .portConfigured .looping 0 0 noAnswers).txbuf buildReadGas
    ∧ ∃ t, performTransfer 3 .write 9 0 (inSession .portConfigured .looping 0 0
        { noAnswers with writes := [.moved 4, .again, .moved 5] }) = .next (.full 9, t) := ⟨holds_store _ _, _, rfl⟩
theorem test_witness_FullReadFillsBuffer :
    ∃ t, performTransfer 2 .read 9 0 (inSession .requestSent .ready 0 0
        { noAnswers with reads := [.moved [0xFF], .moved [0x86, 0x02, 0x60, 0x47, 0, 0, 0, 0xD1]] }) = .next (.full 9, t) :=
  ⟨_, rfl⟩
theorem test_witness_FixedRequestsBuilt :
    (buildReadGas = ⟨0xFF, 0x01, 0x86, 0, 0, 0, 0, 0, 0x79⟩) ∧ buildCalZero = ⟨0xFF, 0x01, 0x87, 0, 0, 0, 0, 0, 0x78⟩ := by
  decide
theorem test_witness_CalSpanRequestBuilt :
    (Instr.calSpanReq 0x0000 0x77).wellFormed = true ∧ (Instr.calSpanReq 0xFFFF 0x79).wellFormed = true := by decide
theorem test_witness_ValidResponseEndsSession :
    (inSession .responseReceived .ready 0 0 noAnswers).fdOpen = true
    ∧ 0xD1#8 = checksum (some ⟨0xFF, 0x86, (0x0260#16).extractLsb' 8 8, (0x0260#16).extractLsb' 0 8,
        (0x47000000#32).extractLsb' 24 8, (0x47000000#32).extractLsb' 16 8, (0x47000000#32).extractLsb' 8 8,
        (0x47000000#32).extractLsb' 0 8, 0xD1#8⟩) := by decide
theorem test_witness_BadChecksumEndsSession :
    (inSession .responseReceived .ready 0 0 noAnswers).fdOpen = true
    ∧ 0xD0#8 ≠ checksum (some ⟨0xFF, 0x86, (0x0260#16).extractLsb' 8 8, (0x0260#16).extractLsb' 0 8,
        (0x47000000#32).extractLsb' 24 8, (0x47000000#32).extractLsb' 16 8, (0x47000000#32).extractLsb' 8 8,
        (0x47000000#32).extractLsb' 0 8, 0xD0#8⟩) := by decide
theorem test_witness_CommandStartsSession :
    commandCode .readGas = some 0 ∧ commandCode .calZero = some 1 ∧ commandCode .calSpan = some 2
    ∧ State.reset.running = false ∧ State.reset.state = .idle ∧ State.reset.cfg.tries ≠ 0
    ∧ ({ resting 0 noAnswers with state := .done } : State).running = false := by decide
theorem test_witness_StartRefused :
    ({ resting 0 noAnswers with cfg := { cfg0 0 0 with tries := 0 } } : State).cfg.tries = 0
    ∧ ({ resting 0 noAnswers with state := .responseReceived } : State).running = false := by decide
theorem test_witness_CommandOpensDevice :
    (envOpen (inSession .idle .ready 1 0 { noAnswers with opens := [.ok 5] })).1 = .ok 5
    ∧ (envOpen (inSession .idle .ready 1 0 { noAnswers with opens := [.fail] })).1 = .fail
    ∧ ({ inSession .idle .ready 1 0 noAnswers with fdOpen := false } : State).fdOpen = false := by decide
theorem test_witness_CommandConfiguresPort :
    (∃ t, configure 3 9600 3 8 0x4E 10
        (inSession .portOpened .ready 0 0 { noAnswers with getAttrs := [.ok attr0], setAttrs := [.ok] }) = (.success, t))
    ∧ ∃ t, configure 3 9600 3 8 0x4E 10 (inSession .portOpened .ready 0 0 { noAnswers with getAttrs := [.fail] })
        = (.failed .getAttrFailed, t) := ⟨⟨_, rfl⟩, ⟨_, rfl⟩⟩
theorem test_witness_CommandSelectsRequest :
    (inSession .portConfigured .ready 0 0 noAnswers).running = true
    ∧ (inSession .portConfigured .ready 0 0 noAnswers).state = .portConfigured
    ∧ (inSession .portConfigured .ready 0 0 noAnswers).progress = .ready := by decide
theorem test_witness_UnrecognisedCommandFails :
    2 < (inSession .portConfigured .ready 3 0 noAnswers).session.cmd.toNat
    ∧ 2 < (inSession .portConfigured .ready 255 0 noAnswers).session.cmd.toNat
    ∧ (inSession .portConfigured .ready 3 0 noAnswers).fdOpen = true := by decide
theorem test_witness_CommandWritePass :
    Memory.holds (inSession .portConfigured .looping 1 0 noAnswers).txbuf buildReadGas
    ∧ State.readied .write (inSession .portConfigured .looping 1 0 noAnswers) (inSession .portConfigured .looping 1 0 noAnswers)
    ∧ (envWrite (buildReadGas.toList.drop 0) (inSession .portConfigured .looping 1 0
        { noAnswers with writes := [.moved 9] })).1 = .moved 9
    ∧ (∃ s1, State.readied .write { inSession .portConfigured .moving 1 2
          { noAnswers with polls := [.ready], writes := [.again] } with moved := 8 } s1
        ∧ (envWrite (buildReadGas.toList.drop 8) s1).1 = .again) :=
  ⟨holds_store _ _, .inl ⟨rfl, rfl⟩, by decide, _, .inr ⟨by decide, rfl, rfl⟩, rfl⟩
theorem test_witness_CommandWriteShortfall :
    (∃ s2, State.unready .write (inSession .portConfigured .looping 0 2 { noAnswers with polls := [.timedOut] }) s2
      .deadlineExceeded)
    ∧ (∃ s2, State.unready .write { inSession .portConfigured .moving 0 2 { noAnswers with polls := [.fatal] } with
          moved := 8, remain := 1 } s2 .waitFailed)
    ∧ (∃ s1, State.readied .write { inSession .portConfigured .moving 0 2
          { noAnswers with polls := [.ready], writes := [.fatal] } with moved := 8 } s1
        ∧ (envWrite (buildReadGas.toList.drop 8) s1).1 = .fatal)
    ∧ Memory.holds (inSession .portConfigured .looping 0 2 noAnswers).txbuf buildReadGas
    ∧ (inSession .portConfigured .looping 0 2 noAnswers).remain = 2 :=
  ⟨⟨_, by decide, _, rfl, .inl ⟨rfl, rfl⟩, rfl⟩, ⟨_, by decide, _, rfl, .inr ⟨rfl, rfl⟩, rfl⟩,
    ⟨_, .inr ⟨by decide, rfl, rfl⟩, rfl⟩, holds_store _ _, rfl⟩
theorem test_witness_CalibrationEndsAfterSend :
    (inSession .requestSent .ready 2 0 noAnswers).running = true ∧ (inSession .requestSent .ready 2 0 noAnswers).fdOpen = true
    ∧ (inSession .requestSent .ready 2 0 noAnswers).state = .requestSent := by decide
theorem test_witness_ReadGasReadPass :
    (envRead (9 - 0) (inSession .requestSent .ready 0 0 { noAnswers with reads := [.moved pg1.toList] })).1 = .moved pg1.toList
    ∧ State.readied .read (inSession .requestSent .ready 0 0 noAnswers) (inSession .requestSent .ready 0 0 noAnswers)
    ∧ (∃ s1, State.readied .read { inSession .requestSent .moving 0 2
          { noAnswers with polls := [.ready], reads := [.again] } with moved := 8 } s1
        ∧ (envRead (9 - 8) s1).1 = .again) :=
  ⟨by decide, .inl ⟨rfl, rfl⟩, _, .inr ⟨by decide, rfl, rfl⟩, rfl⟩
theorem test_witness_ReadGasReadShortfall :
    (∃ s2, State.unready .read { inSession .requestSent .moving 0 2 { noAnswers with polls := [.timedOut] } with
          moved := 3, remain := 1 } s2 .deadlineExceeded)
    ∧ (∃ s2, State.unready .read (inSession .requestSent .ready 0 2 { noAnswers with polls := [.fatal] }) s2 .waitFailed)
    ∧ (∃ s1, State.readied .read { inSession .requestSent .moving 0 0 { noAnswers with reads := [.fatal] } with moved := 8 } s1
        ∧ (envRead (9 - 8) s1).1 = .fatal)
    ∧ (inSession .requestSent .ready 0 0 noAnswers).remain = 2 :=
  ⟨⟨_, by decide, _, rfl, .inl ⟨rfl, rfl⟩, rfl⟩, ⟨_, by decide, _, rfl, .inr ⟨rfl, rfl⟩, rfl⟩,
    ⟨_, .inl ⟨rfl, rfl⟩, rfl⟩, rfl⟩
theorem test_witness_ReceivedPacketJudged :
    Memory.holds (inSession .responseReceived .ready 0 0 noAnswers).rxbuf pg1 ∧ parseGas pg1 = .ok 0x0260
    ∧ Memory.holds (Memory.store [] 0 (pg1.set 8 0xD0).toList) (pg1.set 8 0xD0)
    ∧ parseGas (pg1.set 8 0xD0) = .invalid .badChecksum := ⟨holds_store _ _, by decide, holds_store _ _, by decide⟩
theorem test_witness_StepRunsDecodedInstruction :
    (∃ bytes, memRead (inSession .responseReceived .ready 0 0 noAnswers).rxbuf 0 9 = .next bytes
        ∧ decode bytes = .ok (.readGasResp 0x0260 0x47000000 0xD1))
    ∧ requestInstr (inSession .portConfigured .ready 2 0 noAnswers).session = some (.calSpanReq 0x07D0 0xA0)
    ∧ decode [(inSession .requestSent .ready 1 0 noAnswers).session.cmd] = .ok .calZero
    ∧ (resting 0 noAnswers).host = [.processCommand] ∧ decode [(resting 0 noAnswers).cfg.cmd] = .ok .readGas :=
  ⟨⟨_, rfl, by decide⟩, by decide⟩
theorem test_witness_StepAgreesWithSession : (inSession .idle .ready 9 0 noAnswers).running = true := by decide
theorem test_witness_HostWritesOneRegister :
    ∀ a : HostAction, ({ State.reset with host := [a] } : State).running = false
      ∧ ({ State.reset with host := [a] } : State).state = .idle ∧ ({ State.reset with host := [a] } : State).host = a :: [] :=
  fun _ => ⟨rfl, rfl, rfl⟩
theorem test_witness_ResetRests : State.reset.running = false ∧ State.reset.host = [] := by decide

/-- A session in the loop meets the invariant. -/
theorem inSession_inv : (inSession .responseReceived .ready 0 0 { noAnswers with closes := [.ok] }).Inv := by
  refine ⟨by decide, by decide, by decide, by decide, fun _ => ⟨buildReadGas, by decide, holds_store _ _⟩, ?_, by decide,
    by decide⟩
  exact ⟨by decide, by decide, by decide, by decide⟩

theorem test_witness_StepKeepsInvariant :
    (inSession .responseReceived .ready 0 0 { noAnswers with closes := [.ok] }).Inv
    ∧ ∃ t, step (inSession .responseReceived .ready 0 0 { noAnswers with closes := [.ok] }) = .next t :=
  ⟨inSession_inv, _, rfl⟩
theorem test_witness_SessionNeverStops :
    (inSession .responseReceived .ready 0 0 { noAnswers with closes := [.ok] }).Inv
    ∧ (inSession .responseReceived .ready 0 0 { noAnswers with closes := [.ok] }).running = true := ⟨inSession_inv, by decide⟩
/-- The same session with its open recorded. -/
def opened : State :=
  { inSession .responseReceived .ready 0 0 { noAnswers with closes := [.ok] } with trace := [.openDev 7 (.ok 3)] }

theorem opened_inv : opened.Inv :=
  ⟨by decide, by decide, by decide, by decide, fun _ => ⟨buildReadGas, by decide, holds_store _ _⟩,
    ⟨by decide, by decide, by decide, by decide⟩, by decide, by decide⟩

theorem test_witness_ResourcesReleasedAlongRuns :
    opened.Inv ∧ opened.TraceCounts ∧ ∃ t, Host.Core.run core 1 opened = .next t ∧ t.running = false :=
  ⟨opened_inv, by decide, _, rfl, by decide⟩
theorem test_witness_ConfigErrorsBeforeTransfers :
    (inSession .responseReceived .ready 0 0 { noAnswers with closes := [.ok] }).Inv
    ∧ (inSession .responseReceived .ready 0 0 { noAnswers with closes := [.ok] }).ConfigBeforeTransfer
    ∧ ∃ t, step (inSession .responseReceived .ready 0 0 { noAnswers with closes := [.ok] }) = .next t :=
  ⟨inSession_inv, by decide, _, rfl⟩
theorem test_witness_HostHasNoMoveWhileRunning :
    ∃ t, step (inSession .requestSent .ready 1 0 { noAnswers with closes := [.ok] }) = .next t ∧ t.running = false :=
  ⟨_, rfl, by decide⟩
theorem test_witness_ConcWrittenOnlyByValidResponse :
    ∃ t, step (inSession .responseReceived .ready 0 0 { noAnswers with closes := [.ok] }) = .next t
      ∧ t.conc ≠ (inSession .responseReceived .ready 0 0 noAnswers).conc := ⟨_, rfl, by decide⟩
theorem test_witness_RequestNotRebuilt :
    (inSession .portConfigured .looping 0 0 { noAnswers with writes := [.moved 9] }).inLoop = true
    ∧ ∃ t, step (inSession .portConfigured .looping 0 0 { noAnswers with writes := [.moved 9] }) = .next t
      ∧ t.state = .requestSent := ⟨by decide, _, rfl, by decide⟩
theorem test_witness_TerminalStatesHeld :
    (∃ t, step { State.reset with state := .failed, reason := .closeError } = .next t ∧ t.state = .failed)
    ∧ ∃ t, step { resting 1 noAnswers with state := .failed, reason := .closeError } = .next t ∧ t.state = .idle :=
  ⟨⟨_, rfl, by decide⟩, ⟨_, rfl, by decide⟩⟩
theorem test_witness_DirectionNeverRead :
    ∃ t, step (inSession .portOpened .ready 0 0 { noAnswers with getAttrs := [.ok attr0], setAttrs := [.ok] }) = .next t
      ∧ t.state = .portConfigured := ⟨_, rfl, rfl⟩
theorem test_witness_ReadGasSessionSucceeds :
    ∃ s : State, (s.running = false ∧ s.state = .idle ∧ s.host = [.processCommand] ∧ s.cfg.cmd = 0 ∧ s.cfg.tries ≠ 0
      ∧ s.cfg.timeoutS = 0 ∧ s.cfg.baud ∈ baudSet ∧ s.cfg.dataBits ∈ [0#8, 5#8, 6#8, 7#8, 8#8]
      ∧ s.cfg.parity ∈ [0x00#8, 0x4E#8, 0x6E#8, 0x53#8, 0x73#8, 0x45#8, 0x65#8, 0x4F#8, 0x6F#8]
      ∧ s.cfg.stopBits ∈ [0#8, 10#8, 20#8] ∧ parseGas pg1 = .ok 0x0260)
      ∧ s.env.opens = [.ok 3] ∧ s.env.getAttrs = [.ok attr0] ∧ s.env.setAttrs = [.ok] ∧ s.env.writes = [.moved 9]
      ∧ s.env.reads = [.moved pg1.toList] ∧ s.env.closes = [.ok] :=
  ⟨resting 0 { noAnswers with opens := [.ok 3], getAttrs := [.ok attr0], setAttrs := [.ok], writes := [.moved 9],
                              reads := [.moved pg1.toList], closes := [.ok] },
    ⟨rfl, rfl, rfl, rfl, by decide, rfl, by decide, by decide, by decide, by decide, by decide⟩, rfl, rfl, rfl, rfl, rfl, rfl⟩
theorem test_witness_CalibrationSessionSucceeds :
    ∀ cmd ∈ [1#8, 2#8], ∃ s : State, s.running = false ∧ s.state = .idle ∧ s.host = [.processCommand] ∧ s.cfg.cmd = cmd
      ∧ (∃ q, s.cfg.cmd = 1 ∧ q = buildCalZero ∨ s.cfg.cmd = 2 ∧ q = buildCalSpan s.cfg.span)
      ∧ (s.cfg.tries ≠ 0 ∧ s.cfg.timeoutS = 0 ∧ s.cfg.baud ∈ baudSet ∧ s.cfg.dataBits ∈ [0#8, 5#8, 6#8, 7#8, 8#8]
      ∧ s.cfg.parity ∈ [0x00#8, 0x4E#8, 0x6E#8, 0x53#8, 0x73#8, 0x45#8, 0x65#8, 0x4F#8, 0x6F#8]
      ∧ s.cfg.stopBits ∈ [0#8, 10#8, 20#8])
      ∧ s.env.opens = [.ok 3] ∧ s.env.getAttrs = [.ok attr0] ∧ s.env.setAttrs = [.ok] ∧ s.env.writes = [.moved 9]
      ∧ s.env.closes = [.ok] := by
  intro cmd hc
  refine ⟨resting cmd { noAnswers with opens := [.ok 3], getAttrs := [.ok attr0], setAttrs := [.ok], writes := [.moved 9],
                                       closes := [.ok] }, rfl, rfl, rfl, rfl, ?_,
    ⟨(by decide : 2#32 ≠ 0), rfl, (by decide : 9600#32 ∈ baudSet), (by decide : 8#8 ∈ [0#8, 5#8, 6#8, 7#8, 8#8]),
      (by decide : 0x4E#8 ∈ [0x00#8, 0x4E#8, 0x6E#8, 0x53#8, 0x73#8, 0x45#8, 0x65#8, 0x4F#8, 0x6F#8]),
      (by decide : 10#8 ∈ [0#8, 10#8, 20#8])⟩, rfl, rfl, rfl, rfl, rfl⟩
  rcases List.mem_cons.mp hc with rfl | hc
  · exact ⟨_, .inl ⟨rfl, rfl⟩⟩
  · exact ⟨_, .inr ⟨List.mem_singleton.mp hc, rfl⟩⟩

/-- A session that has opened nothing yet. -/
def starting : State :=
  { resting 0 { noAnswers with opens := [.ok 5] } with session := cfg0 0 0, running := true, host := [] }

theorem starting_inv : starting.Inv :=
  ⟨by decide, by decide, by decide, by decide, by intro h; exact absurd h (by decide),
    ⟨by decide, by decide, by decide, by decide⟩, by decide, by decide⟩

theorem test_witness_StatusCodes :
    starting.Inv ∧ starting.running = true ∧ ∃ t, step starting = .next t ∧ t.running = true :=
  ⟨starting_inv, rfl, _, rfl, rfl⟩
theorem test_witness_RequestsUseHeldDescriptor :
    (starting.Inv ∧ starting.fdOpen = false ∧ ∃ t, step starting = .next t ∧ t.fdOpen = true)
    ∧ (opened.Inv ∧ opened.fdOpen = true ∧ ∃ t, step opened = .next t ∧ t.fdOpen = false)
    ∧ ∃ t, State.reset.running = false ∧ step State.reset = .next t :=
  ⟨⟨starting_inv, rfl, _, rfl, rfl⟩, ⟨opened_inv, rfl, _, rfl, rfl⟩, _, rfl, rfl⟩

end Sys2Proof.Tests
end

section
/-! The start of a session by a host command (R230). -/

namespace Sys2Proof.Machine

/-- The states of R32 in which the unit is not BUSY. -/
theorem State.busy_eq_false_iff {s : State} :
    s.busy = false ↔ s.state = .idle ∨ s.state = .done ∨ s.state = .failed := by
  unfold State.busy
  cases s.state <;> simp

theorem session_of_not_running {s : State} (hr : s.running = false) (cmd : Byte) :
    session cmd s = startSession cmd s := by
  rw [session, if_neg (by simp [hr])]

/-- Neither refusal of R230 and R233 applies, so the start step is taken. -/
theorem startSession_eq_started {s : State} (hb : s.busy = false) (ht : s.cfg.tries ≠ 0) (cmd : Byte) :
    startSession cmd s = .next (started cmd s) := by
  rw [startSession, if_neg (by simp [hb]), if_neg ht]

/-- Settles O31: a command outside a session is `startSession` with its code, and neither refusal applies. -/
theorem commandStartsSession : Obligations.CommandStartsSession := by
  intro i c s hcode hr hstate ht
  have hb : s.busy = false := State.busy_eq_false_iff.mpr hstate
  calc exec i s = session c s := exec_of_commandCode hcode s
    _ = startSession c s := session_of_not_running hr c
    _ = .next (started c s) := startSession_eq_started hb ht c

end Sys2Proof.Machine
end

section
/-! The encoding (30_encoding.md R90 to R98, R101): decode and encode are inverse to each other on what decodes. -/

namespace Sys2Proof

open Sys2Proof.Machine

/-! ### The decoder, a case at a time -/

/-- Nine bytes are the packet they list (R90). -/
theorem Packet.ofList_eq_some_iff {bytes : List Byte} {p : Packet} :
    Packet.ofList bytes = some p ↔ bytes = p.toList := by
  constructor
  · intro h
    unfold Packet.ofList at h
    split at h
    · cases h; rfl
    · cases h
  · rintro rfl
    rfl

/-- What decodes is one byte that is a command, or nine that are a packet (R90, R98). -/
theorem decode_eq_ok_cases {bytes : List Byte} {i : Instr} (h : decode bytes = .ok i) :
    (∃ code, bytes = [code]) ∨ ∃ p : Packet, bytes = p.toList ∧ decodePacket p = .ok i := by
  unfold decode at h
  split at h
  next code => exact .inl ⟨code, rfl⟩
  next =>
    split at h
    next p hp => exact .inr ⟨p, Packet.ofList_eq_some_iff.mp hp, h⟩
    next => cases h

/-- A byte decodes to the instruction whose command code it is (R98). -/
theorem decode_singleton_eq_ok_iff {code : Byte} {i : Instr} :
    decode [code] = .ok i ↔ commandCode i = some code := by
  rw [← commandInstr_eq_some_iff, commandInstr]
  cases decode [code] <;> simp [Except.toOption]

/-- A command code is 0, 1 or 2 (R98). -/
theorem exists_commandCode_eq_some_iff {code : Byte} :
    (∃ i, commandCode i = some code) ↔ code = 0 ∨ code = 1 ∨ code = 2 := by
  constructor
  · rintro ⟨i, hi⟩
    cases i <;> simp_all [commandCode]
  · rintro (rfl | rfl | rfl)
    · exact ⟨.readGas, rfl⟩
    · exact ⟨.calZero, rfl⟩
    · exact ⟨.calSpan, rfl⟩

/-! ### The encoding of what decodes -/

/-- A host command is encoded as its code (R98). -/
theorem encode_of_commandCode {i : Instr} {code : Byte} (h : commandCode i = some code) : encode i = [code] := by
  cases i <;> simp [commandCode] at h <;> subst h <;> rfl

/-- A request packet that decodes is the encoding of its instruction (R91, R92). -/
theorem encode_of_decodeRequest {p : Packet} {i : Instr} (hstart : p.b0 = startMarker) (hid : p.b1 = sensorId)
    (h : decodeRequest p = .ok i) : encode i = p.toList := by
  unfold decodeRequest at h
  split_ifs at h with hread hzeros hck hzero hzeros hck hspan hzeros <;> cases h
  · simp only [encode, Packet.toList, hstart, hid, hread, hzeros, hck]
  · simp only [encode, Packet.toList, hstart, hid, hzero, hzeros, hck]
  · simp only [encode, Packet.toList, hstart, hid, hspan, hzeros, hiByte_joinBytes, loByte_joinBytes]

/-- The fields of a response packet, put into a packet again, are that packet (R93). -/
theorem responsePacket_of_fields {p : Packet} (hstart : p.b0 = startMarker) (hcmd : p.b1 = cmdRead) :
    responsePacket (joinBytes p.b2 p.b3) (p.b4 ++ p.b5 ++ p.b6 ++ p.b7) p.b8 = p := by
  obtain ⟨h4, h5, h6, h7⟩ := extract_joined p.b4 p.b5 p.b6 p.b7
  simp only [responsePacket, hiByte_joinBytes, loByte_joinBytes, h4, h5, h6, h7, ← hstart, ← hcmd]

/-- A packet that decodes is the encoding of its instruction (R97). -/
theorem encode_of_decodePacket {p : Packet} {i : Instr} (h : decodePacket p = .ok i) : encode i = p.toList := by
  unfold decodePacket at h
  split_ifs at h with hstart hid hcmd
  · exact encode_of_decodeRequest hstart hid h
  · cases h
    exact congrArg Packet.toList (responsePacket_of_fields hstart hcmd)

/-- Settles O2: a byte that decodes is its instruction's command code, and nine bytes that decode are one of the four packet
rows with its fields. -/
theorem encodeOfDecoded : Obligations.EncodeOfDecoded := by
  intro bytes i h
  obtain ⟨code, rfl⟩ | ⟨p, rfl, hp⟩ := decode_eq_ok_cases h
  · exact encode_of_commandCode (decode_singleton_eq_ok_iff.mp h)
  · exact encode_of_decodePacket hp

/-! ### The decoding of what is encoded -/

/-- The decoder takes the span point from the bytes of a CAL_SPAN_REQ and passes its checksum byte on unchecked (R92). -/
theorem decode_encode_calSpanReq (span : Half) (checksum : Byte) :
    decode (encode (.calSpanReq span checksum)) = .ok (.calSpanReq span checksum) :=
  calc decode (encode (.calSpanReq span checksum))
    _ = .ok (.calSpanReq (joinBytes (hiByte span) (loByte span)) checksum) := rfl
    _ = .ok (.calSpanReq span checksum) := by rw [joinBytes_hiByte_loByte]

/-- The decoder takes all three fields of a READ_GAS_RESP from its bytes (R93). -/
theorem decode_encode_readGasResp (conc : Half) (reserved : BitVec 32) (checksum : Byte) :
    decode (encode (.readGasResp conc reserved checksum)) = .ok (.readGasResp conc reserved checksum) :=
  calc decode (encode (.readGasResp conc reserved checksum))
    _ = .ok (.readGasResp (joinBytes (hiByte conc) (loByte conc))
          (reserved.extractLsb' 24 8 ++ reserved.extractLsb' 16 8 ++ reserved.extractLsb' 8 8
            ++ reserved.extractLsb' 0 8) checksum) := rfl
    _ = .ok (.readGasResp conc reserved checksum) := by rw [joinBytes_hiByte_loByte, join_extracted]

/-- Every instruction is read back from its bytes, well formed or not: the decoder makes no check of the checksum relation
(R97). -/
theorem decode_encode (i : Instr) : decode (encode i) = .ok i := by
  cases i with
  | readGasReq => rfl
  | calZeroReq => rfl
  | calSpanReq span checksum => exact decode_encode_calSpanReq span checksum
  | readGasResp conc reserved checksum => exact decode_encode_readGasResp conc reserved checksum
  | readGas => rfl
  | calZero => rfl
  | calSpan => rfl

/-- Settles O1: `decode_encode`, which needs no well-formedness. -/
theorem decodeOfEncode : Obligations.DecodeOfEncode := fun i _ => decode_encode i

/-- Settles O3: each of the spec's words is the encoding of its instruction, and a byte decodes exactly when it is the code
of a command. -/
theorem specWordsDecode : Obligations.SpecWordsDecode := by
  refine ⟨decode_encode .readGasReq, decode_encode .calZeroReq, decode_encode (.calSpanReq 0x07D0 0xA0),
    decode_encode (.readGasResp 0x0260 0x47000000 0xD1), decode_encode .readGas, decode_encode .calZero,
    decode_encode .calSpan, fun code => ?_⟩
  simp only [decode_singleton_eq_ok_iff]
  exact exists_commandCode_eq_some_iff

end Sys2Proof
end

section
/-! The table of supported rates (40_baud_table.md R120 to R122): what the scan of LOOKUP_BAUD answers. -/

namespace Sys2Proof.Machine

/-- The scan's answer is always the code of the rate looked up, and it is given exactly for the rates listed (R121). -/
theorem scanBaud_eq_ite (rates : List Word) (rate : Word) :
    scanBaud rates rate = if rate ∈ rates then some (speedCode rate) else none := by
  induction rates with
  | nil => rfl
  | cons r rest ih =>
    rw [scanBaud]
    split_ifs with hr hmem hmem
    · rw [hr]
    · exact absurd (hr ▸ List.mem_cons_self) hmem
    · rw [ih, if_pos (List.mem_of_ne_of_mem (Ne.symm hr) hmem)]
    · rw [ih, if_neg (fun h => hmem (List.mem_cons_of_mem r h))]

theorem lookupBaud_of_mem {rate : Word} (h : rate ∈ baudSet) : lookupBaud rate = some (speedCode rate) := by
  rw [lookupBaud, scanBaud_eq_ite, if_pos h]

theorem lookupBaud_of_not_mem {rate : Word} (h : rate ∉ baudSet) : lookupBaud rate = none := by
  rw [lookupBaud, scanBaud_eq_ite, if_neg h]

/-- Settles O4: the scan answers by membership in the table it scans, whatever the table (`scanBaud_eq_ite`). -/
theorem lookupBaudExactlyTheTable : Obligations.LookupBaudExactlyTheTable :=
  fun _ => ⟨lookupBaud_of_mem, lookupBaud_of_not_mem⟩

end Sys2Proof.Machine
end

section
/-! The line encoding (41_line_encoding.md R131 to R135): each transform replaces one sub-field of the flags word, and the
three sub-fields are disjoint. -/

namespace Sys2Proof.Machine

open Sys2Proof.Config

/-! ### The sub-fields of an admissible layout (R130) -/

section Layout

variable {W : Nat} {L : FlagLayout W}

/-- The members of the control flags that the line encoding edits, pairwise; the two parity flags are edited together. -/
theorem FlagLayout.Ok.lineFlags_disjoint (h : FlagLayout.Ok L) :
    L.csizeMask &&& L.parEnable = 0 ∧ L.csizeMask &&& L.parOdd = 0 ∧ L.csizeMask &&& L.stop2 = 0
      ∧ L.parEnable &&& L.stop2 = 0 ∧ L.parOdd &&& L.stop2 = 0 := by
  obtain ⟨-, -, -, -, hdisjoint⟩ := h
  simp only [layoutMembers, List.pairwise_cons, List.forall_mem_cons, true_implies] at hdisjoint
  obtain ⟨⟨hSizeEnable, hSizeOdd, hSizeStop, -⟩, ⟨-, hEnableStop, -⟩, ⟨hOddStop, -⟩, -⟩ := hdisjoint
  exact ⟨hSizeEnable, hSizeOdd, hSizeStop, hEnableStop, hOddStop⟩

theorem FlagLayout.Ok.csizeMask_disjoint_parity (h : FlagLayout.Ok L) :
    L.csizeMask &&& (L.parEnable ||| L.parOdd) = 0 := by
  obtain ⟨hEnable, hOdd, -⟩ := h.lineFlags_disjoint
  rw [BitVec.and_or_distrib_left, hEnable, hOdd, BitVec.or_self]

theorem FlagLayout.Ok.csizeMask_disjoint_stop2 (h : FlagLayout.Ok L) : L.csizeMask &&& L.stop2 = 0 := by
  obtain ⟨-, -, hStop, -⟩ := h.lineFlags_disjoint
  exact hStop

theorem FlagLayout.Ok.parity_disjoint_stop2 (h : FlagLayout.Ok L) :
    (L.parEnable ||| L.parOdd) &&& L.stop2 = 0 := by
  obtain ⟨-, -, -, hEnable, hOdd⟩ := h.lineFlags_disjoint
  rw [BitVec.and_or_distrib_right, hEnable, hOdd, BitVec.or_self]

end Layout

/-! ### The pattern of each transform lies inside its sub-field -/

section Patterns

variable {W : Nat} {L : FlagLayout W} {n c : Byte} {p : BitVec W}

/-- The four counts of data bits that have a pattern (R132). -/
theorem dataBitsPattern_eq_some_iff :
    dataBitsPattern L n = some p ↔
      n = 5 ∧ p = L.cs5 ∨ n = 6 ∧ p = L.cs6 ∨ n = 7 ∧ p = L.cs7 ∨ n = 8 ∧ p = L.cs8 := by
  unfold dataBitsPattern
  split_ifs <;> simp_all [eq_comm]

theorem dataBitsPattern_eq_none (h5 : n ≠ 5) (h6 : n ≠ 6) (h7 : n ≠ 7) (h8 : n ≠ 8) : dataBitsPattern L n = none := by
  rw [dataBitsPattern, if_neg h5, if_neg h6, if_neg h7, if_neg h8]

theorem dataBitsPattern_inside (h : FlagLayout.Ok L) (hp : dataBitsPattern L n = some p) : p &&& ~~~L.csizeMask = 0 := by
  obtain ⟨-, hinside, -⟩ := h
  apply hinside
  obtain ⟨-, rfl⟩ | ⟨-, rfl⟩ | ⟨-, rfl⟩ | ⟨-, rfl⟩ := dataBitsPattern_eq_some_iff.mp hp <;> simp

theorem parityPattern_inside (hp : parityPattern L c = some p) : p &&& ~~~(L.parEnable ||| L.parOdd) = 0 := by
  unfold parityPattern at hp
  split_ifs at hp <;> cases hp
  · exact BitVec.zero_and
  · rw [BitVec.not_or, ← BitVec.and_assoc, BitVec.and_not_self]
    exact BitVec.zero_and
  · exact BitVec.and_not_self _

/-- The stop-bits flag as a sub-field of one bit: the pattern APPLY_STOPBITS puts there (R134). -/
def stopBitsPattern (L : FlagLayout W) (n : Byte) : Option (BitVec W) :=
  if n = 10 then some 0 else if n = 20 then some L.stop2 else none

theorem stopBitsPattern_inside (hp : stopBitsPattern L n = some p) : p &&& ~~~L.stop2 = 0 := by
  unfold stopBitsPattern at hp
  split_ifs at hp <;> cases hp
  · exact BitVec.zero_and
  · exact BitVec.and_not_self _

end Patterns

/-! ### A transform is the replacement of one sub-field, or a failure -/

/-- One sub-field of the flags replaced by a pattern; no pattern is the failure of the transform (R131). -/
def encodeField {W : Nat} (mask : BitVec W) (pattern : Option (BitVec W)) (flags : BitVec W) : Option (BitVec W) :=
  pattern.map (fun p => replaceField mask p flags)

section Transforms

variable {W : Nat} (L : FlagLayout W)

theorem applyDataBits_eq_encodeField (n : Byte) :
    applyDataBits L n = encodeField L.csizeMask (dataBitsPattern L n) := rfl

theorem applyParity_eq_encodeField (c : Byte) :
    applyParity L c = encodeField (L.parEnable ||| L.parOdd) (parityPattern L c) := rfl

/-- A flag set is the flag cleared and set. -/
theorem or_eq_replaceField (m flags : BitVec W) : flags ||| m = replaceField m m flags := by
  refine BitVec.eq_of_getLsbD_eq fun i hi => ?_
  simp [replaceField, hi, Bool.or_and_distrib_right]

theorem applyStopBits_eq_encodeField (n : Byte) :
    applyStopBits L n = encodeField L.stop2 (stopBitsPattern L n) := by
  funext flags
  unfold applyStopBits stopBitsPattern
  split_ifs
  · simp [encodeField, replaceField]
  · exact congrArg some (or_eq_replaceField L.stop2 flags)
  · rfl

end Transforms

section EncodeField

variable {W : Nat} {mask mask' : BitVec W} {pattern pattern' : Option (BitVec W)}

/-- Transforms of disjoint sub-fields commute, failures included: what either refuses, both orders refuse. -/
theorem encodeField_comm (flags : BitVec W) (hp : ∀ p, pattern = some p → p &&& ~~~mask = 0)
    (hp' : ∀ p, pattern' = some p → p &&& ~~~mask' = 0) (hm : mask &&& mask' = 0) :
    (encodeField mask pattern flags).bind (encodeField mask' pattern')
      = (encodeField mask' pattern' flags).bind (encodeField mask pattern) := by
  cases pattern with
  | none => cases pattern' <;> rfl
  | some p =>
    cases pattern' with
    | none => rfl
    | some p' => exact congrArg some (replaceField_comm flags (hp p rfl) (hp' p' rfl) hm).symm

theorem encodeField_idem (mask : BitVec W) (pattern : Option (BitVec W)) (flags : BitVec W) :
    (encodeField mask pattern flags).bind (encodeField mask pattern) = encodeField mask pattern flags := by
  cases pattern with
  | none => rfl
  | some p => exact congrArg some (replaceField_idem mask p flags)

end EncodeField

/-! ### The statements -/

/-- Settles O6: each count from 5 to 8 has a pattern inside the character-size mask, and the transform replaces the
sub-field by it. -/
theorem dataBitsReplaceCharacterSize : Obligations.DataBitsReplaceCharacterSize := by
  intro W L hL n flags
  refine ⟨fun p hcount => ?_, fun h5 h6 h7 h8 => ?_⟩
  · have hp : dataBitsPattern L n = some p := dataBitsPattern_eq_some_iff.mpr hcount
    have hout : applyDataBits L n flags = some (replaceField L.csizeMask p flags) := by rw [applyDataBits, hp]; rfl
    obtain ⟨hframe, hfield⟩ := replaceField_spec flags (dataBitsPattern_inside hL hp)
    exact ⟨_, hout, rfl, hframe, hfield⟩
  · rw [applyDataBits, dataBitsPattern_eq_none h5 h6 h7 h8]
    rfl

/-- Settles O8: the flag is a sub-field of one bit, replaced by 0 or by the flag itself. -/
theorem stopBitsSetOneFlag : Obligations.StopBitsSetOneFlag := by
  intro W L _ n flags
  rw [applyStopBits_eq_encodeField]
  refine ⟨?_, ?_, fun h10 h20 => ?_⟩
  · rintro rfl
    obtain ⟨hframe, hfield⟩ := replaceField_spec flags (stopBitsPattern_inside (L := L) (n := 10) rfl)
    exact ⟨_, rfl, hfield, hframe⟩
  · rintro rfl
    obtain ⟨hframe, hfield⟩ := replaceField_spec flags (stopBitsPattern_inside (L := L) (n := 20) rfl)
    exact ⟨_, rfl, hfield, hframe⟩
  · rw [stopBitsPattern, if_neg h10, if_neg h20]
    rfl

/-- Settles O9: the three transforms replace three disjoint sub-fields. -/
theorem lineEncodingsCommute : Obligations.LineEncodingsCommute := by
  intro W L hL n c m flags
  have hdata := fun p => dataBitsPattern_inside (n := n) (p := p) hL
  have hparity := fun p => parityPattern_inside (L := L) (c := c) (p := p)
  have hstop := fun p => stopBitsPattern_inside (L := L) (n := m) (p := p)
  rw [applyDataBits_eq_encodeField, applyParity_eq_encodeField, applyStopBits_eq_encodeField]
  exact ⟨encodeField_comm flags hdata hparity hL.csizeMask_disjoint_parity,
    encodeField_comm flags hdata hstop hL.csizeMask_disjoint_stop2,
    encodeField_comm flags hparity hstop hL.parity_disjoint_stop2,
    encodeField_idem _ _ flags, encodeField_idem _ _ flags, encodeField_idem _ _ flags⟩

end Sys2Proof.Machine
end

section
/-! The packet codec (42_packet_codec.md R150 to R161): what the checksum byte is, what it detects, and which packets
PARSE_GAS accepts. -/

namespace Sys2Proof.Machine

/-! ### The checksum byte (R152 to R154) -/

/-- The checksum brings the sum of the payload to 0 (R153). -/
theorem payloadSum_add_checksum (p : Packet) :
    (Packet.payloadSum p + (checksum (some p)).toNat) % 256 = 0 := by
  have hloop := checksumLoop_add_sum 0xFF#8 p.payload
  have hsum : (p.payload.map BitVec.toNat).sum = Packet.payloadSum p := by
    simp only [Packet.payload, Packet.payloadSum, List.map_cons, List.map_nil, List.sum_cons, List.sum_nil]
    omega
  have hlast : (checksum (some p)).toNat = ((checksumLoop 0xFF#8 p.payload).toNat + 1) % 256 := by
    simp [checksum, packetChecksum, BitVec.toNat_add]
  have hstart : (0xFF#8).toNat = 255 := rfl
  omega

/-- It is the only byte that does: two bytes that agree modulo 256 are one byte (R153). -/
theorem eq_checksum_iff {p : Packet} {c : Byte} :
    c = checksum (some p) ↔ (Packet.payloadSum p + c.toNat) % 256 = 0 := by
  have hsum := payloadSum_add_checksum p
  constructor
  · rintro rfl
    exact hsum
  · intro hc
    apply BitVec.eq_of_toNat_eq
    have := c.isLt
    have := (checksum (some p)).isLt
    omega

theorem toNat_checksum (p : Packet) : (checksum (some p)).toNat = (256 - Packet.payloadSum p % 256) % 256 := by
  have hsum := payloadSum_add_checksum p
  have := (checksum (some p)).isLt
  omega

/-- Settles O10: the checksum brings the payload sum to 0, and one byte only does. -/
theorem checksumClosedForm : Obligations.ChecksumClosedForm :=
  fun p => ⟨toNat_checksum p, fun _ => eq_checksum_iff.symm⟩

/-- Replacing one byte of offsets 1 to 8 moves their sum by the difference of the two bytes. -/
theorem sum_set {p : Packet} {off : Nat} {old : Byte} (v : Byte) (h1 : 1 ≤ off) (h8 : off ≤ 8)
    (hold : p.get? off = some old) :
    Packet.payloadSum (p.set off v) + (p.set off v).b8.toNat + old.toNat
      = Packet.payloadSum p + p.b8.toNat + v.toNat := by
  interval_cases off <;> cases hold <;> simp only [Packet.set, Packet.payloadSum] <;> omega

/-- R154 (b): two different bytes are not the same modulo 256, so the sum does not stay 0. -/
theorem set_b8_ne_checksum {p : Packet} {off : Nat} {v : Byte} (hp : p.b8 = checksum (some p)) (h1 : 1 ≤ off)
    (h8 : off ≤ 8) (hv : p.get? off ≠ some v) : (p.set off v).b8 ≠ checksum (some (p.set off v)) := by
  obtain ⟨old, hold⟩ : ∃ old, p.get? off = some old :=
    ⟨_, List.getElem?_eq_getElem (show off < p.toList.length from Nat.lt_succ_of_le h8)⟩
  have hne : old.toNat ≠ v.toNat := fun h => hv (hold.trans (congrArg some (BitVec.eq_of_toNat_eq h)))
  intro hset
  have hsum := sum_set v h1 h8 hold
  have hbefore := eq_checksum_iff.mp hp
  have hafter := eq_checksum_iff.mp hset
  have := old.isLt
  have := v.isLt
  omega

/-- Settles O11: the checksum relation is about the sum of offsets 1 to 8, which every one-byte change moves. -/
theorem checksumDetectsOneByte : Obligations.ChecksumDetectsOneByte :=
  ⟨fun _ => eq_checksum_iff, fun _ _ _ hp h1 h8 hv => set_b8_ne_checksum hp h1 h8 hv⟩

/-! ### The packets built (R155 to R158) -/

theorem payload_embedChecksum (p : Packet) : (embedChecksum p).payload = p.payload := by
  simp only [Packet.payload, embedChecksum]

/-- R158: the byte put at offset 8 is no part of what the checksum is taken of. -/
theorem embedChecksum_b8 (p : Packet) : (embedChecksum p).b8 = checksum (some (embedChecksum p)) :=
  (checksum_congr (payload_embedChecksum p)).symm

theorem buildReadGas_eq : buildReadGas = ⟨0xFF, 0x01, 0x86, 0, 0, 0, 0, 0, 0x79⟩ := by decide

theorem buildCalZero_eq : buildCalZero = ⟨0xFF, 0x01, 0x87, 0, 0, 0, 0, 0, 0x78⟩ := by decide

theorem buildCalSpan_eq (span : Half) :
    buildCalSpan span =
      ⟨0xFF, 0x01, 0x88, hiByte span, loByte span, 0, 0, 0, checksum (some (buildCalSpan span))⟩ := by
  rw [← show (buildCalSpan span).b8 = checksum (some (buildCalSpan span)) from embedChecksum_b8 _]
  rfl

/-- Settles O12: every BUILD operation ends with `embedChecksum`. -/
theorem builtPackets : Obligations.BuiltPackets :=
  ⟨rfl, buildReadGas_eq, embedChecksum_b8 _, buildCalZero_eq, embedChecksum_b8 _,
    fun span => ⟨embedChecksum_b8 _, buildCalSpan_eq span⟩⟩

/-! ### PARSE_GAS (R160), a case at a time -/

section ParseGas

variable {p : Packet}

theorem parseGas_of_start_ne (hstart : p.b0 ≠ startMarker) : parseGas p = .invalid .badStart := if_pos hstart

theorem parseGas_of_command_ne (hstart : p.b0 = startMarker) (hcmd : p.b1 ≠ cmdRead) :
    parseGas p = .invalid .badCommand := by
  rw [parseGas, if_neg (not_not.mpr hstart), if_pos hcmd]

theorem parseGas_of_checksum_ne (hstart : p.b0 = startMarker) (hcmd : p.b1 = cmdRead)
    (hck : p.b8 ≠ checksum (some p)) : parseGas p = .invalid .badChecksum := by
  rw [parseGas, if_neg (not_not.mpr hstart), if_neg (not_not.mpr hcmd), if_pos hck]

theorem parseGas_of_valid (hstart : p.b0 = startMarker) (hcmd : p.b1 = cmdRead) (hck : p.b8 = checksum (some p)) :
    parseGas p = .ok (joinBytes p.b2 p.b3) := by
  rw [parseGas, if_neg (not_not.mpr hstart), if_neg (not_not.mpr hcmd), if_neg (not_not.mpr hck)]

end ParseGas

/-- Settles O13: one equation per check, and the value of the two bytes joined. -/
theorem parseGasChecksInOrder : Obligations.ParseGasChecksInOrder := fun _ =>
  ⟨parseGas_of_start_ne, parseGas_of_command_ne, parseGas_of_checksum_ne, fun hstart hcmd hck =>
    ⟨_, parseGas_of_valid hstart hcmd hck, toNat_joinBytes _ _⟩⟩

theorem set_b0_of_ne (p : Packet) {off : Nat} (v : Byte) (h : off ≠ 0) : (p.set off v).b0 = p.b0 := by
  unfold Packet.set
  split
  · contradiction
  all_goals rfl

theorem set_b1_of_ne (p : Packet) {off : Nat} (v : Byte) (h : off ≠ 1) : (p.set off v).b1 = p.b1 := by
  unfold Packet.set
  split
  · rfl
  · contradiction
  all_goals rfl

/-- Settles O14: offsets 0 and 1 are tested by themselves, before the checksum; a change at any other is left to the
checksum, which detects it. -/
theorem oneByteMutationInvalid : Obligations.OneByteMutationInvalid := by
  intro p c off v hok hoff hv
  obtain ⟨hstart, hcmd, hck, -⟩ := parseGas_eq_ok hok
  split_ifs with h0 h1
  · subst h0
    exact parseGas_of_start_ne fun h => hv (congrArg some (hstart.trans h.symm))
  · subst h1
    exact parseGas_of_command_ne hstart fun h => hv (congrArg some (hcmd.trans h.symm))
  · exact parseGas_of_checksum_ne ((set_b0_of_ne p v h0).trans hstart) ((set_b1_of_ne p v h1).trans hcmd)
      (set_b8_ne_checksum hck (by omega) (by omega) hv)

/-- The response with the given content: offsets 0, 1 and 8 are then fixed (R93, R99). -/
def validResponse (b2 b3 b4 b5 b6 b7 : Byte) : Packet :=
  embedChecksum ⟨startMarker, cmdRead, b2, b3, b4, b5, b6, b7, 0⟩

theorem exists_parseGas_eq_ok_iff {p : Packet} :
    (∃ c, parseGas p = .ok c) ↔ p = validResponse p.b2 p.b3 p.b4 p.b5 p.b6 p.b7 := by
  constructor
  · rintro ⟨c, hok⟩
    obtain ⟨hstart, hcmd, hck, -⟩ := parseGas_eq_ok hok
    have hb8 : p.b8 = (validResponse p.b2 p.b3 p.b4 p.b5 p.b6 p.b7).b8 :=
      hck.trans (checksum_congr (by rw [Packet.payload, hcmd]; rfl))
    calc p = ⟨p.b0, p.b1, p.b2, p.b3, p.b4, p.b5, p.b6, p.b7, p.b8⟩ := rfl
      _ = validResponse p.b2 p.b3 p.b4 p.b5 p.b6 p.b7 := by rw [hstart, hcmd, hb8]; rfl
  · intro h
    rw [h]
    exact ⟨_, parseGas_of_valid rfl rfl (embedChecksum_b8 _)⟩

/-- Settles O15: a valid packet is the `validResponse` of its content, and that one is valid. -/
theorem oneValidPacketPerContent : Obligations.OneValidPacketPerContent := by
  intro b2 b3 b4 b5 b6 b7
  refine ⟨validResponse b2 b3 b4 b5 b6 b7,
    ⟨rfl, rfl, rfl, rfl, rfl, rfl, exists_parseGas_eq_ok_iff.mpr rfl⟩, ?_⟩
  rintro p ⟨rfl, rfl, rfl, rfl, rfl, rfl, hvalid⟩
  exact exists_parseGas_eq_ok_iff.mp hvalid

end Sys2Proof.Machine
end

section
/-! The request packets as instructions (42_packet_codec.md R155 to R157, 45_sensor_session.md R247): what they put into
`TXBUF`. -/

namespace Sys2Proof.Machine

/-- BUILD into `TXBUF` (R247): the buffer holds the packet, and what lies past it, and the canonical form, are kept. -/
theorem armRequest_spec (p : Packet) (s : State) :
    ∃ tx : Memory,
      armRequest p s = .next { s with txbuf := tx, remain := s.session.tries, progress := .looping }
      ∧ Memory.holds tx p
      ∧ (∀ off, 9 ≤ off → Memory.read? tx off = Memory.read? s.txbuf off) ∧ (Memory.wf s.txbuf → Memory.wf tx) := by
  have hlen : p.toList.length = 9 := rfl
  refine ⟨_, armRequest_eq p s, fun off hoff => read?_store_packet s.txbuf p hoff, fun off hoff => ?_, fun hwf => ?_⟩
  · rw [Memory.read?_store, if_neg (by omega)]
  · exact Memory.wf_store hwf (by rw [hlen]; decide)

/-- Settles O27: each of the two instructions is `armRequest` of its packet. -/
theorem fixedRequestsBuilt : Obligations.FixedRequestsBuilt := by
  rintro i p s (⟨rfl, rfl⟩ | ⟨rfl, rfl⟩)
  · rw [← buildReadGas_eq]
    exact armRequest_spec buildReadGas s
  · rw [← buildCalZero_eq]
    exact armRequest_spec buildCalZero s

/-! ### The checksum byte of a CalibrateSpan request (R92) -/

theorem payloadSum_buildCalSpan (span : Half) :
    Packet.payloadSum (buildCalSpan span) = 0x89 + (hiByte span).toNat + (loByte span).toNat := by
  simp [Packet.payloadSum, buildCalSpan, embedChecksum, sensorId, cmdSpan]

/-- R92's closed form, over the natural numbers. -/
theorem checksum_buildCalSpan_eq_ofNat (span : Half) :
    checksum (some (buildCalSpan span)) =
      BitVec.ofNat 8 (256 - (0x89 + (hiByte span).toNat + (loByte span).toNat) % 256) := by
  apply BitVec.eq_of_toNat_eq
  rw [toNat_checksum, payloadSum_buildCalSpan, BitVec.toNat_ofNat]

/-- R92's closed form, over bytes: what a well-formed instruction carries is what BUILD_CAL_SPAN computes. -/
theorem spanRequestChecksum_eq (span : Half) : spanRequestChecksum span = checksum (some (buildCalSpan span)) := by
  rw [eq_checksum_iff, payloadSum_buildCalSpan]
  simp only [spanRequestChecksum, hiByte, loByte, BitVec.toNat_sub, BitVec.toNat_add, BitVec.toNat_ofNat]
  omega

theorem encode_calSpanReq_of_wellFormed {span : Half} {ck : Byte} (h : (Instr.calSpanReq span ck).wellFormed = true) :
    encode (.calSpanReq span ck) = (buildCalSpan span).toList := by
  have hck : ck = checksum (some (buildCalSpan span)) := (eq_of_beq h).trans (spanRequestChecksum_eq span)
  rw [buildCalSpan_eq, ← hck]
  rfl

/-- Settles O28: the instruction is `armRequest` of BUILD_CAL_SPAN's packet, whose last byte has R92's two closed forms. -/
theorem calSpanRequestBuilt : Obligations.CalSpanRequestBuilt := by
  intro span ck s
  obtain ⟨tx, hexec, hholds, hframe, hwf⟩ := armRequest_spec (buildCalSpan span) s
  refine ⟨tx, hexec, ?_, fun hwell off hoff => ?_, hframe, hwf⟩
  · rintro _ rfl
    rw [buildCalSpan_eq, checksum_buildCalSpan_eq_ofNat] at hholds
    exact hholds
  · rw [encode_calSpanReq_of_wellFormed hwell]
    exact hholds off hoff

end Sys2Proof.Machine
end

section
/-! A step of a running session is a transition of R239, whatever it fetches (log 7, log 8). -/

namespace Sys2Proof.Machine

/-! ### What is fetched -/

/-- A response packet in a buffer is fetched as the instruction whose fields it has (R93). -/
theorem responseInstr_eq_some {m : Memory} {i : Instr} (h : responseInstr m = some i) :
    ∃ conc reserved ck, i = .readGasResp conc reserved ck
      ∧ readPacket m = .next (responsePacket conc reserved ck) := by
  unfold responseInstr at h
  split at h
  next p hp =>
    split at h
    next conc reserved ck hdecode =>
      cases h
      have hbytes := encode_of_decodePacket hdecode
      refine ⟨conc, reserved, ck, rfl, hp.trans (congrArg _ ?_)⟩
      exact Option.some.inj ((Packet.ofList_eq_some_iff.mpr rfl).symm.trans (Packet.ofList_eq_some_iff.mpr hbytes.symm))
    next => cases h
  next => cases h

/-- The request packet fetched is the one the command selects (R247). -/
theorem exec_of_requestInstr {s : State} {i : Instr} (h : requestInstr s.session = some i) :
    exec i s = selectRequest s.session.cmd s := by
  unfold requestInstr at h
  unfold selectRequest
  split_ifs at h ⊢ <;> cases h <;> rfl

theorem exec_of_commandInstr {s : State} {i : Instr} {cmd : Byte} (hr : s.running = true)
    (h : commandInstr cmd = some i) : exec i s = sessionStep cmd s := by
  rw [exec_of_commandCode (commandInstr_eq_some_iff.mp h), session, if_pos hr]

/-- The instruction fetched does what the transition does: a command by its row, a request by `selectRequest`, a response by
the packet it is read from. -/
theorem exec_of_fetchSession {s : State} {i : Instr} (hr : s.running = true) (h : fetchSession s = some i) :
    exec i s = sessionStep s.session.cmd s := by
  unfold fetchSession at h
  split at h
  next hst =>
    split_ifs at h with hp
    · rw [exec_of_requestInstr h, sessionStep, hst]
      exact (if_pos hp).symm
    · exact exec_of_commandInstr hr h
  next hst =>
    obtain ⟨conc, reserved, ck, rfl, hpacket⟩ := responseInstr_eq_some h
    simp only [sessionStep, hst, parseStep, hpacket, thenDo]
    rfl
  all_goals exact exec_of_commandInstr hr h

theorem step_eq_sessionStep {s : State} (hr : s.running = true) : step s = sessionStep s.session.cmd s := by
  rw [step, if_pos hr, sessionTurn]
  cases h : fetchSession s with
  | some i => exact exec_of_fetchSession hr h
  | none => exact if_pos hr

/-! ### The packet received (R254) -/

theorem receive_of_ok {p : Packet} {c : Half} (h : parseGas p = .ok c) (s : State) :
    receive p s = succeed { s with conc := c } := by
  rw [receive, h]

theorem receive_of_invalid {p : Packet} {why : ProtoErr} (h : parseGas p = .invalid why) (s : State) :
    receive p s = takeFailure .protocolError { s with protoerr := why } := by
  rw [receive, h]

/-- The end of a session that succeeds, written out: a failing close turns Done into Failed(CloseError) (R255). -/
theorem succeed_of_open {s : State} (h : s.fdOpen = true) :
    succeed s =
      { s with
        state := if (envClose s).1 = .fail then .failed else .done
        reason := if (envClose s).1 = .fail then .closeError else .none
        fdOpen := false, closes := s.closes + 1, running := false, progress := .ready
        env := (envClose s).2.env, trace := .close s.fd (envClose s).1 :: s.trace } := by
  simp only [succeed, closeAndFinish_of_open h, and_true]

/-- The end of a session that fails, written out: the reason stands whatever the close answers (R255, D10). -/
theorem takeFailure_of_open {s : State} (h : s.fdOpen = true) (why : Reason) :
    takeFailure why s =
      { s with
        state := .failed, reason := why
        fdOpen := false, closes := s.closes + 1, running := false, progress := .ready
        env := (envClose s).2.env, trace := .close s.fd (envClose s).1 :: s.trace } := by
  simp only [takeFailure, closeAndFinish_of_open h, reduceCtorEq, and_false, if_false]

/-- Settles O29: the two marks are those of a response, so the checksum alone decides, and the concentration's two bytes are
joined again. -/
theorem validResponseEndsSession : Obligations.ValidResponseEndsSession := by
  intro conc reserved ck s hopen hck
  have hok : parseGas (responsePacket conc reserved ck) = .ok conc :=
    calc parseGas (responsePacket conc reserved ck)
      _ = .ok (joinBytes (hiByte conc) (loByte conc)) := parseGas_of_valid rfl rfl hck
      _ = .ok conc := by rw [joinBytes_hiByte_loByte]
  calc exec (.readGasResp conc reserved ck) s
    _ = .next (receive (responsePacket conc reserved ck) s) := rfl
    _ = .next (succeed { s with conc := conc }) := by rw [receive_of_ok hok]
    _ = _ := congrArg _ (succeed_of_open hopen)

/-- Settles O30: a wrong checksum is the one check of a response's three that its fields can fail. -/
theorem badChecksumEndsSession : Obligations.BadChecksumEndsSession := by
  intro conc reserved ck s hopen hck
  have hbad : parseGas (responsePacket conc reserved ck) = .invalid .badChecksum :=
    parseGas_of_checksum_ne rfl rfl hck
  calc exec (.readGasResp conc reserved ck) s
    _ = .next (receive (responsePacket conc reserved ck) s) := rfl
    _ = .next (takeFailure .protocolError { s with protoerr := .badChecksum }) := by rw [receive_of_invalid hbad]
    _ = _ := congrArg _ (takeFailure_of_open (s := { s with protoerr := .badChecksum }) hopen .protocolError)

theorem step_of_responseReceived {s : State} {p : Packet} (hr : s.running = true) (hst : s.state = .responseReceived)
    (hp : readPacket s.rxbuf = .next p) : step s = .next (receive p s) := by
  rw [step_eq_sessionStep hr]
  simp only [sessionStep, hst, parseStep, hp, thenDo]

/-- Settles O42: the step judges the packet the buffer holds, and PARSE_GAS's result picks the end. -/
theorem receivedPacketJudged : Obligations.ReceivedPacketJudged := by
  intro s p hr hst hopen hholds
  rw [step_of_responseReceived hr hst (readPacket_eq_next hholds)]
  refine ⟨fun why hbad => ?_, fun c hok => ?_⟩
  · rw [receive_of_invalid hbad]
    exact congrArg _ (takeFailure_of_open (s := { s with protoerr := why }) hopen .protocolError)
  · rw [receive_of_ok hok]
    exact congrArg _ (succeed_of_open hopen)

end Sys2Proof.Machine
end

section
/-! Where `CONC` is written (10_state.md R35): by no transition but that of a valid response. -/

namespace Sys2Proof.Machine

theorem thenDo_eq_next {α β : Type} {o : Host.Outcome α Fault Refusal} {f : α → Host.Outcome β Fault Refusal} {b : β}
    (h : thenDo o f = .next b) : ∃ a, o = .next a ∧ f a = .next b := by
  cases o with
  | next a => exact ⟨a, rfl, h⟩
  | fault r => cases h
  | refused r => cases h

/-! ### A pass of a transfer -/

/-- The state differs in what a pass of a transfer may change at most: `MOVED`, `RXBUF`, the environment and the trace (R203). -/
def XferFrame (s s' : State) : Prop :=
  ∃ env trace m rx, s' = { s with env := env, trace := trace, moved := m, rxbuf := rx }

theorem PassFrame.xferFrame {dir : Dir} {length : Nat} {s s' : State} {status : XferStatus}
    (h : PassFrame dir length s status s') : XferFrame s s' := by
  obtain ⟨env, evs, k, rx, hs, -⟩ := h.frame
  exact ⟨env, evs ++ s.trace, s.moved + k, rx, hs⟩

theorem transferOnce_xferFrame {dir : Dir} {length : Nat} {s s' : State} {status : XferStatus} (hl : length ≤ pktLen)
    (hm : s.moved < length) (h : transferOnce dir length s = .next (status, s')) : XferFrame s s' := by
  cases dir with
  | write =>
    obtain ⟨bytes, hread, -⟩ := thenDo_eq_next h
    obtain ⟨_, _, hpass, hframe⟩ := writeOnce_frame hread hm
    cases hpass.symm.trans h
    exact hframe.xferFrame
  | read =>
    obtain ⟨_, _, hpass, hframe⟩ := readOnce_frame hl hm
    cases hpass.symm.trans h
    exact hframe.xferFrame
  | other => cases h

/-- Any pass that answers, whatever the buffers hold (R203). -/
theorem transferPass_xferFrame {dir : Dir} {length : Nat} {timeout : Word} {s s' : State} {status : XferStatus}
    (hl : length ≤ pktLen) (h : transferPass dir length timeout s = .next (status, s')) : XferFrame s s' := by
  have unchanged : XferFrame s s := ⟨_, _, _, _, rfl⟩
  unfold transferPass at h
  split_ifs at h with hm htimeout hdir
  · exact transferOnce_xferFrame hl hm h
  · cases h
    exact unchanged
  · rcases waitThenTransfer_cases dir length timeout s with ⟨_, _, hw, -⟩ | ⟨_, _, hw, -⟩ | ⟨env, hw⟩ <;> rw [hw] at h
    · cases h
      exact ⟨_, _, _, _, rfl⟩
    · cases h
      exact ⟨_, _, _, _, rfl⟩
    · obtain ⟨_, _, _, _, rfl⟩ := transferOnce_xferFrame (s := s.asked env _) hl hm h
      exact ⟨_, _, _, _, rfl⟩
  · cases h
    exact unchanged

/-- A session's pass, its `MOVED` and progress set first where the transfer begins (R37). -/
theorem sessionPass_conc {dir : Dir} {s s' : State} {status : XferStatus}
    (h : transferPass dir pktLen s.session.timeoutS (beginTransfer s) = .next (status, s')) : s'.conc = s.conc := by
  obtain ⟨m, hbegin, -⟩ := beginTransfer_cases s
  rw [hbegin] at h
  obtain ⟨_, _, _, _, rfl⟩ := transferPass_xferFrame le_rfl h
  rfl

/-! ### The transitions -/

@[simp] theorem closeAndFinish_conc (target : SessionState) (why : Reason) (s : State) :
    (closeAndFinish target why s).conc = s.conc := by
  obtain ⟨-, -, -, hconc, -⟩ := closeAndFinish_frame target why s
  exact hconc

@[simp] theorem takeFailure_conc (why : Reason) (s : State) : (takeFailure why s).conc = s.conc :=
  closeAndFinish_conc _ _ s

@[simp] theorem succeed_conc (s : State) : (succeed s).conc = s.conc := closeAndFinish_conc _ _ s

@[simp] theorem shortfall_conc (why : IoErr) (reason : Reason) (s : State) : (shortfall why reason s).conc = s.conc := by
  unfold shortfall
  split_ifs <;> simp

theorem openDevice_conc (s : State) : (openDevice s).conc = s.conc := by
  have hconc : (envOpen s).2.conc = s.conc := rfl
  unfold openDevice
  split
  next fd s' hq => simpa [hq] using hconc
  next s' hq => simpa [hq] using hconc

theorem configurePort_conc (s : State) : (configurePort s).conc = s.conc := by
  obtain ⟨attr, env, evs, -, -, hframe⟩ :=
    configure_frame s.fd s.session.baud 3#8 s.session.dataBits s.session.parity s.session.stopBits s
  have hconc : (configureSession s).2.conc = s.conc := by rw [configureSession, hframe]
  unfold configurePort
  split
  next why s' hq => simpa [hq] using hconc
  next s' _ hq => simpa [hq] using hconc

theorem selectRequest_conc {cmd : Byte} {s t : State} (h : selectRequest cmd s = .next t) : t.conc = s.conc := by
  simp only [selectRequest, armRequest_eq] at h
  split_ifs at h <;> cases h
  · rfl
  · rfl
  · rfl
  · exact takeFailure_conc _ s

/-- What `writeStep` and `readStep` share: a pass, then the state a full transfer leads to, or a shortfall (R248 to R252). -/
def attemptStep (dir : Dir) (target : SessionState) (reason : Reason) (s : State) : Host.Outcome State Fault Refusal :=
  thenDo (transferPass dir pktLen s.session.timeoutS (beginTransfer s)) fun r =>
    match r with
    | (.full _, s') => .next { s' with state := target, progress := .ready }
    | (.continuing, s') => .next s'
    | (.failed why _, s') => .next (shortfall why reason s')

theorem writeStep_eq_attemptStep (s : State) : writeStep s = attemptStep .write .requestSent .writeError s := rfl

theorem readStep_eq_attemptStep (s : State) : readStep s = attemptStep .read .responseReceived .readError s := rfl

theorem attemptStep_conc {dir : Dir} {target : SessionState} {reason : Reason} {s t : State}
    (h : attemptStep dir target reason s = .next t) : t.conc = s.conc := by
  obtain ⟨⟨status, s'⟩, hpass, hnext⟩ := thenDo_eq_next h
  rw [← sessionPass_conc hpass]
  cases status <;> cases hnext
  · rfl
  · rfl
  · exact shortfall_conc _ _ s'

theorem sessionStep_conc {cmd : Byte} {s t : State} (hst : s.state ≠ .responseReceived)
    (h : sessionStep cmd s = .next t) : t.conc = s.conc := by
  unfold sessionStep at h
  split at h
  next => cases h; exact openDevice_conc s
  next => cases h; exact configurePort_conc s
  next =>
    split_ifs at h
    · exact selectRequest_conc h
    · exact attemptStep_conc (writeStep_eq_attemptStep s ▸ h)
  next =>
    split_ifs at h
    · exact attemptStep_conc (readStep_eq_attemptStep s ▸ h)
    · cases h; exact succeed_conc s
  next hresp => exact absurd hresp hst
  next => cases h; rfl
  next => cases h; rfl

/-- A step of a resting unit is the host's, or a start, and neither writes `CONC`. -/
theorem conc_of_resting_step {s t : State} (hr : s.running = false) (h : step s = .next t) : t.conc = s.conc := by
  obtain ⟨-, rfl⟩ | ⟨_, _, -, -, -, rfl⟩ | ⟨_, -, -, -, rfl⟩ := step_of_resting hr h
  · rfl
  · rfl
  · exact started_conc _ _

/-- A packet whose receipt changes `CONC` is valid, and `CONC` is then its concentration (R254). -/
theorem parseGas_of_receive_conc_ne {p : Packet} {s : State} (h : (receive p s).conc ≠ s.conc) :
    parseGas p = .ok (receive p s).conc := by
  cases hp : parseGas p with
  | ok c => simp [receive_of_ok hp]
  | invalid why => simp [receive_of_invalid hp] at h

/-- Settles O54: of the steps of a resting unit and the transitions of a running session, one alone writes `CONC`. -/
theorem concWrittenOnlyByValidResponse : Obligations.ConcWrittenOnlyByValidResponse := by
  intro s t h hne
  have hr : s.running = true := by
    by_contra hr
    exact hne (conc_of_resting_step ((Bool.not_eq_true _).mp hr) h)
  rw [step_eq_sessionStep hr] at h
  have hst : s.state = .responseReceived := by
    by_contra hst
    exact hne (sessionStep_conc hst h)
  have hparse : parseStep s = .next t := by simpa only [sessionStep, hst] using h
  obtain ⟨p, hp, hreceive⟩ := thenDo_eq_next hparse
  cases hreceive
  exact ⟨hr, hst, p, hp, parseGas_of_receive_conc_ne hne⟩

end Sys2Proof.Machine
end

section
/-! Raw mode (43_port_configurator.md R187): each flags word has one set of flags put in and one taken out. -/

namespace Sys2Proof.Machine

open Sys2Proof.Config

section RawMode

variable {W : Nat}

/-! ### A flag as a part of a flags word (R130, `word(m)`) -/

/-- What a flag living in `home` contributes to the word `w`: the flag there, nothing elsewhere. -/
def flagIn (home w : FlagWordName) (flag : BitVec W) : BitVec W := if home = w then flag else 0

@[simp] theorem flagIn_self (w : FlagWordName) (flag : BitVec W) : flagIn w w flag = flag := if_pos rfl

theorem and_flagIn_eq_zero_iff {home w : FlagWordName} {bit flag : BitVec W} :
    bit &&& flagIn home w flag = 0 ↔ (home = w → bit &&& flag = 0) := by
  unfold flagIn
  split_ifs with h <;> simp [h]

theorem setBits_eq (home : FlagWordName) (flag : BitVec W) (a : Attr W) :
    setBits home flag a =
      { a with cflag := a.cflag ||| flagIn home .cflag flag, lflag := a.lflag ||| flagIn home .lflag flag } := by
  cases home <;> simp [setBits, flagIn]

theorem clearBits_eq (home : FlagWordName) (flag : BitVec W) (a : Attr W) :
    clearBits home flag a =
      { a with cflag := a.cflag &&& ~~~flagIn home .cflag flag, lflag := a.lflag &&& ~~~flagIn home .lflag flag } := by
  cases home <;> simp [clearBits, flagIn]

/-! ### Raw mode on a flags word -/

/-- The flags raw mode sets in a word (R187). -/
def rawSet (L : FlagLayout W) (w : FlagWordName) : BitVec W :=
  flagIn L.ignModemWord w L.ignModem ||| flagIn L.rxEnableWord w L.rxEnable

/-- The flags raw mode clears in a word (R187). -/
def rawCleared (L : FlagLayout W) (w : FlagWordName) : BitVec W :=
  flagIn L.canonWord w L.canon ||| flagIn L.echoWord w L.echo ||| flagIn L.signalsWord w L.signals

/-- All of raw mode at once: in each of the two words first the set flags, then the cleared ones. -/
theorem rawMode_eq (L : FlagLayout W) (a : Attr W) :
    rawMode L a =
      { a with cflag := (a.cflag ||| rawSet L .cflag) &&& ~~~rawCleared L .cflag
               lflag := (a.lflag ||| rawSet L .lflag) &&& ~~~rawCleared L .lflag } := by
  simp only [rawMode, setBits_eq, clearBits_eq, rawSet, rawCleared, BitVec.not_or, BitVec.and_assoc, BitVec.or_assoc]

theorem wordOf_rawMode (L : FlagLayout W) (w : FlagWordName) (a : Attr W) :
    wordOf w (rawMode L a) = (wordOf w a ||| rawSet L w) &&& ~~~rawCleared L w := by
  rw [rawMode_eq]
  cases w <;> rfl

/-! ### What a bit of a word is after raw mode -/

theorem and_or_eq_zero_iff {x y z : BitVec W} : x &&& (y ||| z) = 0 ↔ x &&& y = 0 ∧ x &&& z = 0 := by
  rw [BitVec.and_or_distrib_left]
  exact BitVec.or_eq_zero_iff

/-- Clearing flags keeps the bits that are none of them. -/
theorem and_not_and_of_disjoint {bit cleared : BitVec W} (x : BitVec W) (h : bit &&& cleared = 0) :
    x &&& ~~~cleared &&& bit = x &&& bit := by
  have hkept : bit &&& ~~~cleared = bit := by
    rw [← and_not_eq_zero_iff, BitVec.not_not, h]
  rw [BitVec.and_assoc, BitVec.and_comm (~~~cleared), hkept]

/-- A word inside another is inside the other joined to a third. -/
theorem and_not_or_of_left {x y : BitVec W} (z : BitVec W) (h : x &&& ~~~y = 0) : x &&& ~~~(y ||| z) = 0 := by
  rw [BitVec.not_or, ← BitVec.and_assoc, h]
  exact BitVec.zero_and

theorem and_not_or_of_right {x z : BitVec W} (y : BitVec W) (h : x &&& ~~~z = 0) : x &&& ~~~(y ||| z) = 0 := by
  rw [BitVec.or_comm]
  exact and_not_or_of_left y h

variable {L : FlagLayout W} {w : FlagWordName} {bit : BitVec W}

theorem and_rawSet_eq_zero_iff :
    bit &&& rawSet L w = 0 ↔
      (L.ignModemWord = w → bit &&& L.ignModem = 0) ∧ (L.rxEnableWord = w → bit &&& L.rxEnable = 0) := by
  rw [rawSet, and_or_eq_zero_iff, and_flagIn_eq_zero_iff, and_flagIn_eq_zero_iff]

theorem and_rawCleared_eq_zero_iff :
    bit &&& rawCleared L w = 0 ↔
      (L.canonWord = w → bit &&& L.canon = 0) ∧ (L.echoWord = w → bit &&& L.echo = 0)
        ∧ (L.signalsWord = w → bit &&& L.signals = 0) := by
  rw [rawCleared, and_or_eq_zero_iff, and_or_eq_zero_iff, and_flagIn_eq_zero_iff, and_flagIn_eq_zero_iff,
    and_flagIn_eq_zero_iff, and_assoc]

/-- Bits that are in none of the five flags are what they were. -/
theorem wordOf_rawMode_of_untouched (a : Attr W) (hset : bit &&& rawSet L w = 0)
    (hclear : bit &&& rawCleared L w = 0) : wordOf w (rawMode L a) &&& bit = wordOf w a &&& bit := by
  have hadds : rawSet L w &&& bit = 0 := by rw [BitVec.and_comm, hset]
  rw [wordOf_rawMode, and_not_and_of_disjoint _ hclear, BitVec.and_or_distrib_right, hadds]
  exact BitVec.or_zero

/-- Bits that raw mode sets, and does not clear again, are set. -/
theorem wordOf_rawMode_of_set (a : Attr W) (hset : bit &&& ~~~rawSet L w = 0)
    (hclear : bit &&& rawCleared L w = 0) : wordOf w (rawMode L a) &&& bit = bit := by
  have hin : bit &&& ~~~(wordOf w a ||| rawSet L w) = 0 := and_not_or_of_right _ hset
  rw [wordOf_rawMode, and_not_and_of_disjoint _ hclear, BitVec.and_comm]
  exact (and_not_eq_zero_iff _ _).mp hin

/-- Bits that raw mode clears are clear. -/
theorem wordOf_rawMode_of_cleared (a : Attr W) (hclear : bit &&& ~~~rawCleared L w = 0) :
    wordOf w (rawMode L a) &&& bit = 0 := by
  rw [wordOf_rawMode, BitVec.and_assoc, BitVec.and_comm (~~~rawCleared L w), hclear]
  exact BitVec.and_zero

/-! ### An admissible layout keeps the flags set apart from the flags cleared (R130) -/

theorem FlagLayout.Ok.rawFlags_disjoint (h : FlagLayout.Ok L) :
    L.ignModem &&& rawCleared L L.ignModemWord = 0 ∧ L.rxEnable &&& rawCleared L L.rxEnableWord = 0 := by
  obtain ⟨-, -, -, -, hdisjoint⟩ := h
  simp only [layoutMembers, List.pairwise_cons, List.forall_mem_cons] at hdisjoint
  obtain ⟨-, -, -, -, ⟨-, hIgnCanon, hIgnEcho, hIgnSignals, -⟩, ⟨hRxCanon, hRxEcho, hRxSignals, -⟩, -⟩ := hdisjoint
  simp only [and_rawCleared_eq_zero_iff]
  exact ⟨⟨hIgnCanon ∘ Eq.symm, hIgnEcho ∘ Eq.symm, hIgnSignals ∘ Eq.symm⟩,
    hRxCanon ∘ Eq.symm, hRxEcho ∘ Eq.symm, hRxSignals ∘ Eq.symm⟩

/-! ### Each of the five flags is set, or cleared, in its own word -/

theorem ignModem_inside_rawSet (L : FlagLayout W) : L.ignModem &&& ~~~rawSet L L.ignModemWord = 0 := by
  rw [rawSet, flagIn_self]
  exact and_not_or_of_left _ (BitVec.and_not_self _)

theorem rxEnable_inside_rawSet (L : FlagLayout W) : L.rxEnable &&& ~~~rawSet L L.rxEnableWord = 0 := by
  rw [rawSet, flagIn_self]
  exact and_not_or_of_right _ (BitVec.and_not_self _)

theorem canon_inside_rawCleared (L : FlagLayout W) : L.canon &&& ~~~rawCleared L L.canonWord = 0 := by
  rw [rawCleared, flagIn_self]
  exact and_not_or_of_left _ (and_not_or_of_left _ (BitVec.and_not_self _))

theorem echo_inside_rawCleared (L : FlagLayout W) : L.echo &&& ~~~rawCleared L L.echoWord = 0 := by
  rw [rawCleared, flagIn_self]
  exact and_not_or_of_left _ (and_not_or_of_right _ (BitVec.and_not_self _))

theorem signals_inside_rawCleared (L : FlagLayout W) : L.signals &&& ~~~rawCleared L L.signalsWord = 0 := by
  rw [rawCleared, flagIn_self]
  exact and_not_or_of_right _ (BitVec.and_not_self _)

end RawMode

/-- Settles O18: `rawMode_eq` writes raw mode as one set of flags put into each word and one taken out, and R130 keeps the two
sets apart. -/
theorem rawModeTouchesFiveFlags : Obligations.RawModeTouchesFiveFlags := by
  intro W L a hL
  obtain ⟨hIgn, hRx⟩ := hL.rawFlags_disjoint
  refine ⟨wordOf_rawMode_of_set a (ignModem_inside_rawSet L) hIgn, wordOf_rawMode_of_set a (rxEnable_inside_rawSet L) hRx,
    wordOf_rawMode_of_cleared a (canon_inside_rawCleared L), wordOf_rawMode_of_cleared a (echo_inside_rawCleared L),
    wordOf_rawMode_of_cleared a (signals_inside_rawCleared L), ?_, by rw [rawMode_eq]⟩
  intro w bit hIgn hRx hCanon hEcho hSignals
  exact wordOf_rawMode_of_untouched a (and_rawSet_eq_zero_iff.mpr ⟨hIgn, hRx⟩)
    (and_rawCleared_eq_zero_iff.mpr ⟨hCanon, hEcho, hSignals⟩)

end Sys2Proof.Machine
end

section
/-! CONFIGURE (43_port_configurator.md R180 to R187): which of its nine steps ends it, and what it leaves. -/

namespace Sys2Proof.Machine

open Sys2Proof.Config

/-! ### The operands (R26, R181) -/

section Operands

/-- The directions the unit recognises (R26). -/
theorem direction_cases {dir : Byte} (h : dir.toNat ≤ 3) : dir = 0 ∨ dir = 1 ∨ dir = 2 ∨ dir = 3 := by
  bv_omega

theorem Direction.ofCode_of_unrecognised {dir : Byte} (h : 3 < dir.toNat) :
    Direction.ofCode dir = .unrecognised dir := by
  rw [Direction.ofCode, if_neg (by bv_omega), if_neg (by bv_omega), if_neg (by bv_omega), if_neg (by bv_omega)]

theorem Direction.ofCode_eq_unset_iff {dir : Byte} : Direction.ofCode dir = .unset ↔ dir = 0 := by
  unfold Direction.ofCode
  split_ifs with h0 <;> simp_all

theorem nothingRequested_iff {dir dataBits parity stopBits : Byte} :
    nothingRequested (Direction.ofCode dir) dataBits parity stopBits = true ↔
      dir = 0 ∧ dataBits = 0 ∧ parity = 0 ∧ stopBits = 0 := by
  simp [nothingRequested, Direction.ofCode_eq_unset_iff, and_assoc]

variable {W : Nat} {L : FlagLayout W} {flags : BitVec W}

theorem applyDataBits_eq_none_iff {n : Byte} : applyDataBits L n flags = none ↔ n ∉ [5#8, 6#8, 7#8, 8#8] := by
  rw [applyDataBits, Option.map_eq_none_iff, dataBitsPattern]
  split_ifs <;> simp_all

/-- A letter in upper case is what `upper` makes of two codes, its own and that of the letter in lower case (R133). -/
theorem upper_eq_iff {c letter : Byte} (hA : 0x41#8 ≤ letter) (hZ : letter ≤ 0x5A#8) :
    upper c = letter ↔ c = letter ∨ c = letter + 0x20#8 := by
  unfold upper
  split_ifs <;> bv_omega

theorem parityPattern_eq_none_iff {c : Byte} :
    parityPattern L c = none ↔ ¬((upper c = 0x4E#8 ∨ upper c = 0x53#8) ∨ upper c = 0x45#8 ∨ upper c = 0x4F#8) := by
  unfold parityPattern
  split_ifs <;> simp [*]

theorem applyParity_eq_none_iff {c : Byte} :
    applyParity L c flags = none ↔ c ∉ [0x4E#8, 0x6E#8, 0x53#8, 0x73#8, 0x45#8, 0x65#8, 0x4F#8, 0x6F#8] := by
  have hN : upper c = 0x4E#8 ↔ c = 0x4E#8 ∨ c = 0x6E#8 := upper_eq_iff (by decide) (by decide)
  have hS : upper c = 0x53#8 ↔ c = 0x53#8 ∨ c = 0x73#8 := upper_eq_iff (by decide) (by decide)
  have hE : upper c = 0x45#8 ↔ c = 0x45#8 ∨ c = 0x65#8 := upper_eq_iff (by decide) (by decide)
  have hO : upper c = 0x4F#8 ↔ c = 0x4F#8 ∨ c = 0x6F#8 := upper_eq_iff (by decide) (by decide)
  rw [applyParity, Option.map_eq_none_iff, parityPattern_eq_none_iff, hN, hS, hE, hO]
  simp [or_assoc]

theorem applyStopBits_eq_none_iff {n : Byte} : applyStopBits L n flags = none ↔ n ∉ [10#8, 20#8] := by
  rw [applyStopBits]
  split_ifs <;> simp_all

/-- An operand that is not requested cannot fail its step (R181). -/
theorem applyIfRequested_eq_none_iff {apply : Byte → BitVec W → Option (BitVec W)} {operand : Byte} :
    applyIfRequested apply operand flags = none ↔ operand ≠ 0 ∧ apply operand flags = none := by
  rw [applyIfRequested]
  split_ifs <;> simp_all

end Operands

/-! ### The steps on the working copy (R182 steps 4 to 8) -/

section Steps

variable {W : Nat}

@[simp] theorem thenStep_done (a : Attr W) (step : Attr W → Attr W × Option ConfigFailure) :
    thenStep (a, none) step = step a := rfl

@[simp] theorem thenStep_failed (a : Attr W) (why : ConfigFailure) (step : Attr W → Attr W × Option ConfigFailure) :
    thenStep (a, some why) step = (a, some why) := rfl

theorem setSpeed_of_recognised {dir : Byte} (h : dir.toNat ≤ 3) (code : SpeedCode) (a : Attr W) :
    setSpeed code (Direction.ofCode dir) a =
      ({ a with ispeed := if dir = 1 ∨ dir = 3 then code else a.ispeed
                ospeed := if dir = 2 ∨ dir = 3 then code else a.ospeed }, none) := by
  obtain rfl | rfl | rfl | rfl := direction_cases h <;> rfl

theorem setSpeed_of_unrecognised {dir : Byte} (h : 3 < dir.toNat) (code : SpeedCode) (a : Attr W) :
    setSpeed code (Direction.ofCode dir) a = (a, some (.unsupportedDirection dir)) := by
  rw [Direction.ofCode_of_unrecognised h]
  rfl

section EncodeStep

variable {apply : Byte → BitVec W → Option (BitVec W)} {operand : Byte} {a : Attr W}

theorem encodeStep_of_some {c : BitVec W} (h : applyIfRequested apply operand a.cflag = some c) (why : ConfigFailure) :
    encodeStep apply operand why a = ({ a with cflag := c }, none) := by
  rw [encodeStep, h]

theorem encodeStep_succeeds (h : ¬(operand ≠ 0 ∧ apply operand a.cflag = none)) (why : ConfigFailure) :
    ∃ a', encodeStep apply operand why a = (a', none) := by
  obtain ⟨c, hc⟩ := Option.ne_none_iff_exists'.mp (mt applyIfRequested_eq_none_iff.mp h)
  exact ⟨_, encodeStep_of_some hc why⟩

theorem encodeStep_fails (h0 : operand ≠ 0) (h : apply operand a.cflag = none) (why : ConfigFailure) :
    encodeStep apply operand why a = (a, some why) := by
  rw [encodeStep, applyIfRequested_eq_none_iff.mpr ⟨h0, h⟩]

end EncodeStep

/-- The working copy as steps 4 to 8 leave it when none of them fails. -/
theorem editAttr_of_good_operands {L : FlagLayout W} {dir dataBits parity stopBits : Byte} {a : Attr W}
    {c5 c6 c7 : BitVec W} (hdir : dir.toNat ≤ 3)
    (h5 : applyIfRequested (applyDataBits L) dataBits a.cflag = some c5)
    (h6 : applyIfRequested (applyParity L) parity c5 = some c6)
    (h7 : applyIfRequested (applyStopBits L) stopBits c6 = some c7) (code : SpeedCode) :
    editAttr L code (Direction.ofCode dir) dataBits parity stopBits a =
      (rawMode L { a with cflag := c7
                          ispeed := if dir = 1 ∨ dir = 3 then code else a.ispeed
                          ospeed := if dir = 2 ∨ dir = 3 then code else a.ospeed }, none) := by
  simp only [editAttr, setSpeed_of_recognised hdir, thenStep_done, encodeStep, h5, h6, h7]

/-! ### The first bad step (R185, R293) -/

section FirstBadStep

variable {L : FlagLayout W} {dir dataBits parity stopBits : Byte} (code : SpeedCode) (a : Attr W)

theorem setSpeed_succeeds (hdir : dir.toNat ≤ 3) : ∃ a', setSpeed code (Direction.ofCode dir) a = (a', none) :=
  ⟨_, setSpeed_of_recognised hdir code a⟩

theorem dataBitsStep_succeeds (h : dataBits ∈ [0#8, 5#8, 6#8, 7#8, 8#8]) :
    ∃ a', encodeStep (applyDataBits L) dataBits (.unsupportedDataBits dataBits) a = (a', none) :=
  encodeStep_succeeds (fun ⟨h0, hnone⟩ => (List.mem_cons.mp h).elim h0 (applyDataBits_eq_none_iff.mp hnone)) _

theorem parityStep_succeeds (h : parity ∈ [0x00#8, 0x4E#8, 0x6E#8, 0x53#8, 0x73#8, 0x45#8, 0x65#8, 0x4F#8, 0x6F#8]) :
    ∃ a', encodeStep (applyParity L) parity (.unsupportedParity parity) a = (a', none) :=
  encodeStep_succeeds (fun ⟨h0, hnone⟩ => (List.mem_cons.mp h).elim h0 (applyParity_eq_none_iff.mp hnone)) _

theorem editAttr_of_bad_direction (hdir : 3 < dir.toNat) :
    (editAttr L code (Direction.ofCode dir) dataBits parity stopBits a).2 = some (.unsupportedDirection dir) := by
  simp only [editAttr, setSpeed_of_unrecognised hdir, thenStep_failed]

theorem editAttr_of_bad_dataBits (hdir : dir.toNat ≤ 3) (h0 : dataBits ≠ 0) (h : dataBits ∉ [5#8, 6#8, 7#8, 8#8]) :
    (editAttr L code (Direction.ofCode dir) dataBits parity stopBits a).2 = some (.unsupportedDataBits dataBits) := by
  obtain ⟨a4, hspeed⟩ := setSpeed_succeeds code a hdir
  simp only [editAttr, hspeed, thenStep_done, encodeStep_fails h0 (applyDataBits_eq_none_iff.mpr h), thenStep_failed]

theorem editAttr_of_bad_parity (hdir : dir.toNat ≤ 3) (hdata : dataBits ∈ [0#8, 5#8, 6#8, 7#8, 8#8])
    (h0 : parity ≠ 0) (h : parity ∉ [0x4E#8, 0x6E#8, 0x53#8, 0x73#8, 0x45#8, 0x65#8, 0x4F#8, 0x6F#8]) :
    (editAttr L code (Direction.ofCode dir) dataBits parity stopBits a).2 = some (.unsupportedParity parity) := by
  obtain ⟨a4, hspeed⟩ := setSpeed_succeeds code a hdir
  obtain ⟨a5, hsize⟩ := dataBitsStep_succeeds (L := L) a4 hdata
  simp only [editAttr, hspeed, hsize, thenStep_done, encodeStep_fails h0 (applyParity_eq_none_iff.mpr h),
    thenStep_failed]

theorem editAttr_of_bad_stopBits (hdir : dir.toNat ≤ 3) (hdata : dataBits ∈ [0#8, 5#8, 6#8, 7#8, 8#8])
    (hparity : parity ∈ [0x00#8, 0x4E#8, 0x6E#8, 0x53#8, 0x73#8, 0x45#8, 0x65#8, 0x4F#8, 0x6F#8])
    (h0 : stopBits ≠ 0) (h : stopBits ∉ [10#8, 20#8]) :
    (editAttr L code (Direction.ofCode dir) dataBits parity stopBits a).2 = some (.unsupportedStopBits stopBits) := by
  obtain ⟨a4, hspeed⟩ := setSpeed_succeeds code a hdir
  obtain ⟨a5, hsize⟩ := dataBitsStep_succeeds (L := L) a4 hdata
  obtain ⟨a6, hpar⟩ := parityStep_succeeds (L := L) a5 hparity
  simp only [editAttr, hspeed, hsize, hpar, thenStep_done, encodeStep_fails h0 (applyStopBits_eq_none_iff.mpr h),
    thenStep_failed]

end FirstBadStep

end Steps

/-! ### The whole operation, by the step that ends it (R182) -/

/-- Asking for the attributes uses up an answer and is recorded; nothing else changes. -/
theorem envGetAttr_snd_eq {fd : Nat} {s : State} {answer : GetAttrAnswer} (h : (envGetAttr fd s).1 = answer) :
    (envGetAttr fd s).2 = { s with env := (envGetAttr fd s).2.env, trace := .getAttr fd answer :: s.trace } := by
  subst h
  rfl

/-- Step 9 on the working copy `out`: the environment's answer decides, and the copy stays in `ATTR` (R182). -/
theorem writeAttr_eq (fd : Nat) (out : DeviceAttr) (s : State) :
    writeAttr fd { s with attr := out } =
      (if (envSetAttr fd out s).1 = .ok then .success else .failed .setAttrFailed,
        { s with attr := out, env := (envSetAttr fd out s).2.env
                 trace := .setAttr fd out (envSetAttr fd out s).1 :: s.trace }) := rfl

section Configure

variable {fd : Nat} {baud : Word} {dir dataBits parity stopBits : Byte} {s : State}

theorem editAndWrite_of_failed {code : SpeedCode} {direction : Direction} {out : DeviceAttr} {why : ConfigFailure}
    (h : editAttr layout code direction dataBits parity stopBits s.attr = (out, some why)) :
    editAndWrite fd code direction dataBits parity stopBits s = (.failed why, { s with attr := out }) := by
  simp only [editAndWrite, h]

theorem editAndWrite_of_done {code : SpeedCode} {direction : Direction} {out : DeviceAttr}
    (h : editAttr layout code direction dataBits parity stopBits s.attr = (out, none)) :
    editAndWrite fd code direction dataBits parity stopBits s = writeAttr fd { s with attr := out } := by
  simp only [editAndWrite, h]

theorem configure_of_unsupported_rate (hbaud : baud ∉ baudSet) :
    configure fd baud dir dataBits parity stopBits s = (.failed (.unsupportedBaudRate baud), s) := by
  rw [configure, lookupBaud_of_not_mem hbaud]

theorem configure_of_nothing_requested (hbaud : baud ∈ baudSet)
    (hnothing : dir = 0 ∧ dataBits = 0 ∧ parity = 0 ∧ stopBits = 0) :
    configure fd baud dir dataBits parity stopBits s = (.noOp, s) := by
  rw [configure, lookupBaud_of_mem hbaud]
  exact if_pos (nothingRequested_iff.mpr hnothing)

/-- From step 3 on the answer to EnvGetAttr decides (R182). -/
theorem configure_of_requested (hbaud : baud ∈ baudSet)
    (hreq : ¬(dir = 0 ∧ dataBits = 0 ∧ parity = 0 ∧ stopBits = 0)) :
    configure fd baud dir dataBits parity stopBits s =
      match (envGetAttr fd s).1 with
      | .fail => (.failed .getAttrFailed, (envGetAttr fd s).2)
      | .ok a =>
        editAndWrite fd (speedCode baud) (Direction.ofCode dir) dataBits parity stopBits
          { (envGetAttr fd s).2 with attr := a } := by
  rw [configure, lookupBaud_of_mem hbaud]
  refine (if_neg (mt nothingRequested_iff.mp hreq)).trans ?_
  obtain ⟨answer, s'⟩ := envGetAttr fd s
  cases answer <;> rfl

theorem configure_of_unread (hbaud : baud ∈ baudSet)
    (hreq : ¬(dir = 0 ∧ dataBits = 0 ∧ parity = 0 ∧ stopBits = 0)) (hget : (envGetAttr fd s).1 = .fail) :
    configure fd baud dir dataBits parity stopBits s = (.failed .getAttrFailed, (envGetAttr fd s).2) := by
  rw [configure_of_requested hbaud hreq, hget]

theorem configure_of_read {a : DeviceAttr} (hbaud : baud ∈ baudSet)
    (hreq : ¬(dir = 0 ∧ dataBits = 0 ∧ parity = 0 ∧ stopBits = 0)) (hget : (envGetAttr fd s).1 = .ok a) :
    configure fd baud dir dataBits parity stopBits s =
      editAndWrite fd (speedCode baud) (Direction.ofCode dir) dataBits parity stopBits
        { (envGetAttr fd s).2 with attr := a } := by
  rw [configure_of_requested hbaud hreq, hget]

/-- A failure of steps 4 to 7 is the failure CONFIGURE answers (R182). -/
theorem configure_fst_of_editAttr_failed {a : DeviceAttr} {why : ConfigFailure} (hbaud : baud ∈ baudSet)
    (hreq : ¬(dir = 0 ∧ dataBits = 0 ∧ parity = 0 ∧ stopBits = 0)) (hget : (envGetAttr fd s).1 = .ok a)
    (hedit : (editAttr layout (speedCode baud) (Direction.ofCode dir) dataBits parity stopBits a).2 = some why) :
    (configure fd baud dir dataBits parity stopBits s).1 = .failed why := by
  rw [configure_of_read hbaud hreq hget,
    editAndWrite_of_failed (s := { (envGetAttr fd s).2 with attr := a }) (Prod.ext rfl hedit)]

/-- Steps 4 to 8 ask the environment nothing, and step 9 has one failure only (R182, R184). -/
theorem editAndWrite_trace_of_failed {code : SpeedCode} {direction : Direction} {why : ConfigFailure} {s' : State}
    (h : editAndWrite fd code direction dataBits parity stopBits s = (.failed why, s')) (hwhy : why ≠ .setAttrFailed) :
    s'.trace = s.trace := by
  rcases hedit : editAttr layout code direction dataBits parity stopBits s.attr with ⟨out, _ | first⟩
  · rw [editAndWrite_of_done hedit, writeAttr_eq] at h
    obtain ⟨hresult, -⟩ := Prod.mk.inj h
    split_ifs at hresult
    cases hresult
    exact absurd rfl hwhy
  · rw [editAndWrite_of_failed hedit] at h
    cases h
    rfl

/-- A failure before step 9 has at most read the attributes (R184). -/
theorem configure_trace_of_failed {why : ConfigFailure} {s' : State}
    (h : configure fd baud dir dataBits parity stopBits s = (.failed why, s')) (hwhy : why ≠ .setAttrFailed) :
    s'.trace = s.trace ∨ ∃ answer, s'.trace = .getAttr fd answer :: s.trace := by
  by_cases hbaud : baud ∈ baudSet
  case neg =>
    rw [configure_of_unsupported_rate hbaud] at h
    cases h
    exact .inl rfl
  by_cases hreq : dir = 0 ∧ dataBits = 0 ∧ parity = 0 ∧ stopBits = 0
  case pos =>
    rw [configure_of_nothing_requested hbaud hreq] at h
    cases h
  cases hget : (envGetAttr fd s).1 with
  | fail =>
    rw [configure_of_unread hbaud hreq hget] at h
    cases h
    exact .inr ⟨_, rfl⟩
  | ok a =>
    rw [configure_of_read hbaud hreq hget] at h
    exact .inr ⟨_, editAndWrite_trace_of_failed h hwhy⟩

end Configure

/-! ### The statements -/

/-- Settles O16: steps 1 and 2 end CONFIGURE before it asks the environment anything. -/
theorem configureWithoutRequests : Obligations.ConfigureWithoutRequests := fun _ _ _ =>
  ⟨fun hbaud => configure_of_nothing_requested hbaud ⟨rfl, rfl, rfl, rfl⟩,
    fun _ _ _ _ hbaud => configure_of_unsupported_rate hbaud⟩

/-- Settles O17: every step up to 8 succeeds, and step 9 writes back the working copy they leave. -/
theorem configureWritesAttributes : Obligations.ConfigureWritesAttributes := by
  intro fd baud dir dataBits parity stopBits s a c5 c6 c7 hbaud hdir hreq hget h5 h6 h7 out s' hout hs'
  have hedit : editAttr layout (speedCode baud) (Direction.ofCode dir) dataBits parity stopBits a = (out, none) := by
    rw [hout]
    exact editAttr_of_good_operands hdir h5 h6 h7 (speedCode baud)
  obtain ⟨env, hasked⟩ := envGetAttr_snd fd s
  have hread : s' = s.asked env (.getAttr fd (.ok a)) := by rw [hs', hasked, hget]
  calc configure fd baud dir dataBits parity stopBits s
    _ = editAndWrite fd (speedCode baud) (Direction.ofCode dir) dataBits parity stopBits { s' with attr := a } :=
      hs' ▸ configure_of_read hbaud hreq hget
    _ = writeAttr fd { s' with attr := out } := editAndWrite_of_done (s := { s' with attr := a }) hedit
    _ = _ := by
      subst hread
      exact writeAttr_eq fd out _

/-- Settles O19: of a failing CONFIGURE's requests none but step 9's is an EnvSetAttr, and step 9 fails as SetAttrFailed. -/
theorem configureFailureLeavesDevice : Obligations.ConfigureFailureLeavesDevice := by
  intro fd baud dir dataBits parity stopBits s
  refine ⟨fun s' why h hwhy => ?_, fun hbaud hreq hget => ?_⟩
  · obtain htrace | ⟨answer, htrace⟩ := configure_trace_of_failed h hwhy
    · exact ⟨[], htrace, by simp⟩
    · exact ⟨[.getAttr fd answer], htrace, by simp [Event.isSetAttr]⟩
  · rw [configure_of_unread hbaud hreq hget]
    exact congrArg _ (envGetAttr_snd_eq hget)

/-- Settles O20: a bad step ends `editAttr` whatever the later operands are, once the steps before it have succeeded. -/
theorem configureReportsFirstBadStep : Obligations.ConfigureReportsFirstBadStep := by
  intro fd baud dir dataBits parity stopBits s a hbaud hget hreq
  refine ⟨fun hdir => ?_, fun hdir h0 hdata => ?_, fun hdir hdata hparity => ?_, fun hdir hdata hparity hstop => ?_⟩ <;>
    apply configure_fst_of_editAttr_failed hbaud hreq hget
  · exact editAttr_of_bad_direction _ a hdir
  · exact editAttr_of_bad_dataBits _ a hdir h0 hdata
  · obtain ⟨h0, hparity⟩ := not_or.mp (mt List.mem_cons.mpr hparity)
    exact editAttr_of_bad_parity _ a hdir hdata h0 hparity
  · obtain ⟨h0, hstop⟩ := not_or.mp (mt List.mem_cons.mpr hstop)
    exact editAttr_of_bad_stopBits _ a hdir hdata hparity h0 hstop

end Sys2Proof.Machine
end

section
/-! One pass of a transfer (44_reliable_io.md R203 to R209): what each answer of the environment makes of it. -/

namespace Sys2Proof.Machine

open Sys2Proof.Config

/-! ### The answers to EnvXfer (R11, R201) -/

/-- Every answer but `Fatal` lets the transfer go on, `Again` as a `Moved(0)` does (R207, D8). -/
theorem WriteAnswer.fatal_or_progress (a : WriteAnswer) : a = .fatal ∨ ∃ k, a = .moved k ∨ a = .again ∧ k = 0 := by
  cases a with
  | moved k => exact .inr ⟨k, .inl rfl⟩
  | again => exact .inr ⟨0, .inr ⟨rfl, rfl⟩⟩
  | fatal => exact .inl rfl

theorem envPoll_eq {dir : Dir} {timeout : Word} {s : State} {a : PollAnswer} (h : (envPoll dir timeout s).1 = a) :
    envPoll dir timeout s = (a, s.asked (envPoll dir timeout s).2.env (.poll dir s.fd timeout a)) := by
  subst h
  rfl

theorem envWrite_eq {bytes : List Byte} {s : State} {a : WriteAnswer} (h : (envWrite bytes s).1 = a) :
    envWrite bytes s = (a, s.asked (envWrite bytes s).2.env (.xferWrite s.fd bytes a)) := by
  subst h
  rfl

theorem envRead_eq {n : Nat} {s : State} {a : ReadAnswer} (h : (envRead n s).1 = a) :
    envRead n s = (a, s.asked (envRead n s).2.env (.xferRead s.fd n a)) := by
  subst h
  rfl

/-- R11: no more goes out than was offered, nothing on `Again`. -/
theorem envWrite_progress_le {bytes : List Byte} {s : State} {k : Nat}
    (h : (envWrite bytes s).1 = .moved k ∨ (envWrite bytes s).1 = .again ∧ k = 0) : k ≤ bytes.length := by
  obtain h | ⟨-, rfl⟩ := h
  · exact envWrite_moved_le h
  · exact Nat.zero_le _

/-- R11: no more comes in than was asked for, nothing on `Again`. -/
theorem envRead_progress_le {n : Nat} {s : State} {bytes : List Byte}
    (h : (envRead n s).1 = .moved bytes ∨ (envRead n s).1 = .again ∧ bytes = []) : bytes.length ≤ n := by
  obtain h | ⟨-, rfl⟩ := h
  · exact envRead_moved_le h
  · exact Nat.zero_le _

/-! ### `MOVED <- MOVED + k` and the loop's test -/

theorem advance_of_lt {length k : Nat} {s : State} (h : s.moved + k < length) :
    advance length k s = (.continuing, { s with moved := s.moved + k }) := by
  rw [advance, if_pos h]

theorem advance_of_le {length k : Nat} {s : State} (h : length ≤ s.moved + k) :
    advance length k s = (.full length, { s with moved := s.moved + k }) := by
  rw [advance, if_neg (Nat.not_lt.mpr h)]

/-! ### EnvXfer(Write, …) (R204) -/

section WriteOnce

variable {length : Nat} {s : State} {bytes : List Byte}

theorem writeOnce_of_fatal (hread : memRead s.txbuf s.moved (length - s.moved) = .next bytes)
    (h : (envWrite bytes s).1 = .fatal) :
    writeOnce length s =
      .next (.failed .transferFailed s.moved, s.asked (envWrite bytes s).2.env (.xferWrite s.fd bytes .fatal)) := by
  simp only [writeOnce, hread, thenDo]
  rw [envWrite_eq h]
  rfl

theorem writeOnce_of_progress {k : Nat} (hm : s.moved < length)
    (hread : memRead s.txbuf s.moved (length - s.moved) = .next bytes)
    (h : (envWrite bytes s).1 = .moved k ∨ (envWrite bytes s).1 = .again ∧ k = 0) :
    writeOnce length s = .next (advance length k (envWrite bytes s).2) := by
  simp only [writeOnce, hread, thenDo]
  obtain h | ⟨h, rfl⟩ := h
  · rw [envWrite_eq h]
  · rw [advance_of_lt (s := (envWrite bytes s).2) hm, envWrite_eq h]
    rfl

end WriteOnce

/-! ### EnvXfer(Read, …) (R205) -/

section ReadOnce

variable {length : Nat} {s : State} {bytes : List Byte}

theorem readOnce_of_fatal (h : (envRead (length - s.moved) s).1 = .fatal) :
    readOnce length s = .next (.failed .transferFailed s.moved,
      s.asked (envRead (length - s.moved) s).2.env (.xferRead s.fd (length - s.moved) .fatal)) := by
  rw [readOnce, envRead_eq h]
  rfl

theorem readOnce_of_again (h : (envRead (length - s.moved) s).1 = .again) :
    readOnce length s = .next (.continuing,
      s.asked (envRead (length - s.moved) s).2.env (.xferRead s.fd (length - s.moved) .again)) := by
  rw [readOnce, envRead_eq h]
  rfl

theorem readOnce_of_moved (h : (envRead (length - s.moved) s).1 = .moved bytes) :
    readOnce length s = thenDo (memWrite s.rxbuf s.moved bytes) fun m =>
      .next (advance length bytes.length { (envRead (length - s.moved) s).2 with rxbuf := m }) := by
  rw [readOnce, envRead_eq h]
  rfl

theorem readOnce_of_progress (hm : s.moved < length) (hl : length ≤ pktLen)
    (h : (envRead (length - s.moved) s).1 = .moved bytes ∨ (envRead (length - s.moved) s).1 = .again ∧ bytes = []) :
    readOnce length s = .next (advance length bytes.length
      { (envRead (length - s.moved) s).2 with rxbuf := Memory.store s.rxbuf s.moved bytes }) := by
  obtain h | ⟨h, rfl⟩ := h
  · have hn := envRead_moved_le h
    rw [readOnce_of_moved h, memWrite_eq_next (by omega)]
    rfl
  · rw [readOnce_of_again h, List.length_nil, advance_of_lt hm, envRead_eq h]
    rfl

end ReadOnce

/-! ### The pass, by its timeout (R203, R208) -/

section TransferPass

variable {dir : Dir} {length : Nat} {timeout : Word} {s : State}

theorem transferPass_of_no_timeout (hm : s.moved < length) :
    transferPass dir length 0 s = transferOnce dir length s := by
  rw [transferPass, if_pos hm, if_pos rfl]

theorem transferPass_of_timeout (hm : s.moved < length) (ht : timeout ≠ 0) (hd : dir ≠ .other) :
    transferPass dir length timeout s = waitThenTransfer dir length timeout s := by
  rw [transferPass, if_pos hm, if_neg ht, if_neg hd]

theorem transferPass_other_of_timeout (hm : s.moved < length) (ht : timeout ≠ 0) :
    transferPass .other length timeout s = .next (.failed .unsupportedOperation s.moved, s) := by
  rw [transferPass, if_pos hm, if_neg ht, if_pos rfl]

theorem transferPass_of_all_moved (hm : length ≤ s.moved) :
    transferPass dir length timeout s = .next (.full length, s) := by
  rw [transferPass, if_neg (Nat.not_lt.mpr hm)]

end TransferPass

/-- Settles O23: the readiness check is made first, and only `Ready` reaches the underlying transfer. -/
theorem readinessCheckDecidesPass : Obligations.ReadinessCheckDecidesPass := by
  intro dir length timeout s hd ht hm
  rw [transferPass_of_timeout hm ht hd, waitThenTransfer]
  refine ⟨fun h => ?timedOut, fun h => ?fatal, fun h => ?ready⟩
  case timedOut => rw [envPoll_eq h]; rfl
  case fatal => rw [envPoll_eq h]; rfl
  case ready =>
    rw [envPoll_eq h]
    exact (transferPass_of_no_timeout (s := s.asked _ (.poll dir s.fd timeout .ready)) hm).symm

/-- Settles O22: both answers advance the loop by nothing, and less than the length has moved. -/
theorem againConsumesNothing : Obligations.AgainConsumesNothing := by
  intro length s bytes hm
  rw [transferPass_of_no_timeout hm, transferPass_of_no_timeout hm]
  refine ⟨fun hread h => ?write, fun h hl => ?read⟩
  case write =>
    have hnone : (envWrite bytes s).1 = .moved 0 ∨ (envWrite bytes s).1 = .again ∧ 0 = 0 := by simpa using h.symm
    rw [transferOnce, writeOnce_of_progress hm hread hnone, advance_of_lt hm]
    rfl
  case read =>
    have hnone : (envRead (length - s.moved) s).1 = .moved [] ∨ (envRead (length - s.moved) s).1 = .again ∧
        ([] : List Byte) = [] := by simpa using h.symm
    rw [transferOnce, readOnce_of_progress hm hl hnone, List.length_nil, advance_of_lt hm]
    rfl

/-! ### The loop (R203) -/

theorem transferLoop_succ_of_pass {fuel length : Nat} {dir : Dir} {timeout : Word} {s s' : State} {status : XferStatus}
    (h : transferPass dir length timeout s = .next (status, s')) (hends : status ≠ .continuing) :
    transferLoop (fuel + 1) dir length timeout s = .next (status, s') := by
  rw [transferLoop, h]
  cases status with
  | full n => rfl
  | continuing => exact absurd rfl hends
  | failed why n => rfl

/-- Settles O24: the first pass ends each of these transfers. -/
theorem transferEdgeOperands : Obligations.TransferEdgeOperands := by
  intro fuel length dir timeout s
  refine ⟨fun hl ht => ?unsupported, fun hl => ?refused, ?nothing⟩
  case unsupported => exact transferLoop_succ_of_pass (transferPass_other_of_timeout hl ht) (by simp)
  case refused =>
    have hpass : transferPass .other length 0 { s with moved := 0 } = .refused .otherDirectionWithoutTimeout :=
      transferPass_of_no_timeout hl
    rw [performTransfer, transferLoop, hpass]
    rfl
  case nothing => exact transferLoop_succ_of_pass (transferPass_of_all_moved (Nat.zero_le 0)) (by simp)

end Sys2Proof.Machine
end

section
/-! A transfer as a whole (44_reliable_io.md R204, R205, R210): each pass moves a chunk of bytes, and chunks join. -/

namespace Sys2Proof.Machine

open Sys2Proof.Config

/-! ### The bytes handed out and taken (log 21) -/

theorem outbound_of_trace_cons {s s' : State} {e : Event} (h : s'.trace = e :: s.trace) :
    s'.outbound = s.outbound ++ e.outbound := by
  simp [State.outbound, h]

theorem inbound_of_trace_cons {s s' : State} {e : Event} (h : s'.trace = e :: s.trace) :
    s'.inbound = s.inbound ++ e.inbound := by
  simp [State.inbound, h]

/-! ### A chunk moved -/

/-- From `s` to `s'` the bytes of `chunk` have moved in the direction `dir`: out of `TXBUF` from `MOVED` upward, or into
`RXBUF` there (R203 to R205). -/
structure ChunkMoved (dir : Dir) (chunk : List Byte) (s s' : State) : Prop where
  moved : s'.moved = s.moved + chunk.length
  txbuf : s'.txbuf = s.txbuf
  outbound : s'.outbound = s.outbound ++ if dir = .write then chunk else []
  inbound : s'.inbound = s.inbound ++ if dir = .read then chunk else []
  sent : dir = .write → s'.rxbuf = s.rxbuf ∧ ∀ i < chunk.length, Memory.read? s.txbuf (s.moved + i) = chunk[i]?
  received : dir = .read → ∀ off, Memory.read? s'.rxbuf off =
    if s.moved ≤ off ∧ off < s'.moved then chunk[off - s.moved]? else Memory.read? s.rxbuf off

theorem ChunkMoved.refl (dir : Dir) (s : State) : ChunkMoved dir [] s s where
  moved := rfl
  txbuf := rfl
  outbound := by simp
  inbound := by simp
  sent _ := ⟨rfl, by simp⟩
  received _ off := by rw [if_neg (by omega)]

/-- A request that moves no byte. -/
theorem ChunkMoved.of_asked (dir : Dir) (s : State) (env : Env) {e : Event} (hout : e.outbound = [])
    (hin : e.inbound = []) :
    ChunkMoved dir [] s (s.asked env e) where
  moved := rfl
  txbuf := rfl
  outbound := by simp [outbound_of_trace_cons (State.asked_trace s env e), hout]
  inbound := by simp [inbound_of_trace_cons (State.asked_trace s env e), hin]
  sent _ := ⟨rfl, by simp⟩
  received _ off := by rw [if_neg (by simp)]; rfl

theorem ChunkMoved.trans {dir : Dir} {c d : List Byte} {s s' s'' : State} (h : ChunkMoved dir c s s')
    (h' : ChunkMoved dir d s' s'') : ChunkMoved dir (c ++ d) s s'' where
  moved := by rw [h'.moved, h.moved, List.length_append, Nat.add_assoc]
  txbuf := h'.txbuf.trans h.txbuf
  outbound := by rw [h'.outbound, h.outbound]; split_ifs <;> simp
  inbound := by rw [h'.inbound, h.inbound]; split_ifs <;> simp
  sent hd := by
    obtain ⟨hrx, hc⟩ := h.sent hd
    obtain ⟨hrx', hd'⟩ := h'.sent hd
    refine ⟨hrx'.trans hrx, fun i hi => ?_⟩
    rw [List.length_append] at hi
    rw [List.getElem?_append]
    split_ifs with hlt
    · exact hc i hlt
    · have hlater := hd' (i - c.length) (by omega)
      rwa [h.txbuf, h.moved, show s.moved + c.length + (i - c.length) = s.moved + i by omega] at hlater
  received hd off := by
    have hm := h.moved
    have hm' := h'.moved
    rw [h'.received hd]
    by_cases hsecond : s'.moved ≤ off ∧ off < s''.moved
    · rw [if_pos hsecond, if_pos (by omega), List.getElem?_append_right (by omega)]
      congr 1
      omega
    · rw [if_neg hsecond, h.received hd]
      by_cases hfirst : s.moved ≤ off ∧ off < s'.moved
      · rw [if_pos hfirst, if_pos (by omega), List.getElem?_append_left (by omega)]
      · rw [if_neg hfirst, if_neg (by omega)]

/-! ### The status of a transfer (R201, R210) -/

/-- The status agrees with the count moved: full is the full length, a failure carries the count, below the length. -/
def XferStatus.Fits (length moved : Nat) : XferStatus → Prop
  | .continuing => moved ≤ length
  | .full n => n = length ∧ moved = length
  | .failed why n => n = moved ∧ moved < length ∧ why ≠ .none

/-- What a pass does to a transfer it is part of. -/
def PassOutcome (dir : Dir) (length : Nat) (s : State) (status : XferStatus) (s' : State) : Prop :=
  status.Fits length s'.moved ∧ ∃ chunk, ChunkMoved dir chunk s s'

/-- The loop's test leaves no short count, as long as no more has moved than was asked for. -/
theorem PassOutcome.of_advance {dir : Dir} {length k : Nat} {s t : State} {chunk : List Byte}
    (hle : t.moved + k ≤ length) (h : ChunkMoved dir chunk s { t with moved := t.moved + k }) :
    PassOutcome dir length s (advance length k t).1 (advance length k t).2 := by
  rcases Nat.lt_or_ge (t.moved + k) length with hlt | hge
  · rw [advance_of_lt hlt]
    exact ⟨hle, chunk, h⟩
  · rw [advance_of_le hge]
    exact ⟨⟨rfl, Nat.le_antisymm hle hge⟩, chunk, h⟩

/-- A pass answered that its first `k` bytes have gone out (R204). -/
theorem ChunkMoved.of_envWrite {s : State} {bytes : List Byte} {n k : Nat}
    (hread : memRead s.txbuf s.moved n = .next bytes)
    (h : (envWrite bytes s).1 = .moved k ∨ (envWrite bytes s).1 = .again ∧ k = 0) :
    ChunkMoved .write (bytes.take k) s { (envWrite bytes s).2 with moved := s.moved + k } where
  moved := by simp [envWrite_progress_le h]
  txbuf := rfl
  outbound := by
    rw [outbound_of_trace_cons (s := s) (e := .xferWrite s.fd bytes (envWrite bytes s).1) rfl]
    obtain h | ⟨h, rfl⟩ := h <;> simp [h, Event.outbound]
  inbound := (inbound_of_trace_cons (s := s) (e := .xferWrite s.fd bytes (envWrite bytes s).1) rfl).trans rfl
  sent _ := by
    obtain ⟨-, hlen, hbytes⟩ := memRead_spec hread
    refine ⟨rfl, fun i hi => ?_⟩
    rw [List.length_take] at hi
    rw [hbytes i (by omega), List.getElem?_take_of_lt (by omega)]
  received hd := by cases hd

/-- A pass answered with the bytes it has stored (R205). -/
theorem ChunkMoved.of_envRead {s : State} {n : Nat} {bytes : List Byte} (h : (envRead n s).1 = .moved bytes) :
    ChunkMoved .read bytes s
      { (envRead n s).2 with rxbuf := Memory.store s.rxbuf s.moved bytes, moved := s.moved + bytes.length } where
  moved := rfl
  txbuf := rfl
  outbound := (outbound_of_trace_cons (s := s) (e := .xferRead s.fd n (envRead n s).1) rfl).trans rfl
  inbound := by
    rw [inbound_of_trace_cons (s := s) (e := .xferRead s.fd n (envRead n s).1) rfl, h]
    rfl
  sent hd := by cases hd
  received _ off := Memory.read?_store s.rxbuf s.moved bytes off

theorem writeOnce_outcome {length : Nat} {s s' : State} {status : XferStatus} (hm : s.moved < length)
    (h : writeOnce length s = .next (status, s')) : PassOutcome .write length s status s' := by
  obtain ⟨bytes, hread, -⟩ := thenDo_eq_next h
  obtain ⟨-, hlen, -⟩ := memRead_spec hread
  obtain hfatal | ⟨k, hprogress⟩ := WriteAnswer.fatal_or_progress (envWrite bytes s).1
  · rw [writeOnce_of_fatal hread hfatal] at h
    cases h
    exact ⟨⟨rfl, hm, by simp⟩, [], .of_asked _ s _ rfl rfl⟩
  · have hk := envWrite_progress_le hprogress
    rw [writeOnce_of_progress hm hread hprogress] at h
    cases h
    have hle : s.moved + k ≤ length := by omega
    exact .of_advance (t := (envWrite bytes s).2) hle (.of_envWrite hread hprogress)

theorem readOnce_outcome {length : Nat} {s s' : State} {status : XferStatus} (hm : s.moved < length)
    (h : readOnce length s = .next (status, s')) : PassOutcome .read length s status s' := by
  cases ha : (envRead (length - s.moved) s).1 with
  | fatal =>
    rw [readOnce_of_fatal ha] at h
    cases h
    exact ⟨⟨rfl, hm, by simp⟩, [], .of_asked _ s _ rfl rfl⟩
  | again =>
    rw [readOnce_of_again ha] at h
    cases h
    exact ⟨Nat.le_of_lt hm, [], .of_asked _ s _ rfl rfl⟩
  | moved bytes =>
    have hn := envRead_moved_le ha
    rw [readOnce_of_moved ha] at h
    obtain ⟨m, hwrite, hnext⟩ := thenDo_eq_next h
    unfold memWrite at hwrite
    split_ifs at hwrite
    cases hwrite
    cases hnext
    have hle : s.moved + bytes.length ≤ length := by omega
    exact .of_advance (t := { (envRead (length - s.moved) s).2 with rxbuf := Memory.store s.rxbuf s.moved bytes }) hle
      (.of_envRead ha)

theorem transferOnce_outcome {dir : Dir} {length : Nat} {s s' : State} {status : XferStatus} (hm : s.moved < length)
    (h : transferOnce dir length s = .next (status, s')) : PassOutcome dir length s status s' := by
  cases dir with
  | write => exact writeOnce_outcome hm h
  | read => exact readOnce_outcome hm h
  | other => cases h

/-- A pass that answers, whatever its direction, length and timeout (R203, R208, R209). -/
theorem transferPass_outcome {dir : Dir} {length : Nat} {timeout : Word} {s s' : State} {status : XferStatus}
    (hm : s.moved ≤ length) (h : transferPass dir length timeout s = .next (status, s')) :
    PassOutcome dir length s status s' := by
  unfold transferPass at h
  split_ifs at h with hlt htimeout hdir
  · exact transferOnce_outcome hlt h
  · cases h
    exact ⟨⟨rfl, hlt, by simp⟩, [], .refl dir s⟩
  · rcases waitThenTransfer_cases dir length timeout s with ⟨env, _, hw, rfl⟩ | ⟨env, _, hw, rfl⟩ | ⟨env, hw⟩ <;>
      rw [hw] at h
    · cases h
      exact ⟨⟨rfl, hlt, by simp⟩, [], .of_asked dir s env rfl rfl⟩
    · cases h
      exact ⟨⟨rfl, hlt, by simp⟩, [], .of_asked dir s env rfl rfl⟩
    · obtain ⟨hfits, chunk, hchunk⟩ := transferOnce_outcome (s := s.asked env _) hlt h
      exact ⟨hfits, _, (ChunkMoved.of_asked dir s env rfl rfl).trans hchunk⟩
  · cases h
    exact ⟨⟨rfl, by omega⟩, [], .refl dir s⟩

theorem transferLoop_outcome {fuel length : Nat} {dir : Dir} {timeout : Word} {s s' : State} {status : XferStatus}
    (hm : s.moved ≤ length) (h : transferLoop fuel dir length timeout s = .next (status, s')) :
    PassOutcome dir length s status s' := by
  induction fuel generalizing s with
  | zero =>
    cases h
    exact ⟨hm, [], .refl dir _⟩
  | succ fuel ih =>
    obtain ⟨⟨first, s1⟩, hpass, hrest⟩ := thenDo_eq_next h
    have hfirst := transferPass_outcome hm hpass
    cases first with
    | full n => cases hrest; exact hfirst
    | failed why n => cases hrest; exact hfirst
    | continuing =>
      obtain ⟨hm1, _, hchunk⟩ := hfirst
      obtain ⟨hfits, _, hlater⟩ := ih hm1 hrest
      exact ⟨hfits, _, hchunk.trans hlater⟩

theorem performTransfer_outcome {fuel length : Nat} {dir : Dir} {timeout : Word} {s s' : State} {status : XferStatus}
    (h : performTransfer fuel dir length timeout s = .next (status, s')) :
    PassOutcome dir length { s with moved := 0 } status s' :=
  transferLoop_outcome (Nat.zero_le length) h

/-- The chunk of a transfer that is full is as long as the transfer, from offset 0 (R210). -/
theorem exists_chunk_of_full {fuel length n : Nat} {dir : Dir} {timeout : Word} {s s' : State}
    (h : performTransfer fuel dir length timeout s = .next (.full n, s')) :
    ∃ chunk : List Byte, chunk.length = length ∧ ChunkMoved dir chunk { s with moved := 0 } s' := by
  obtain ⟨⟨-, hfull⟩, chunk, hchunk⟩ := performTransfer_outcome h
  exact ⟨chunk, by simpa [hfull] using hchunk.moved.symm, hchunk⟩

theorem Packet.exists_toList_eq {bytes : List Byte} (h : bytes.length = 9) : ∃ p : Packet, p.toList = bytes := by
  match bytes, h with
  | [b0, b1, b2, b3, b4, b5, b6, b7, b8], _ => exact ⟨⟨b0, b1, b2, b3, b4, b5, b6, b7, b8⟩, rfl⟩

/-! ### The statements -/

/-- Settles O21: a pass leaves a status that agrees with the count moved, and it begins only below the length. -/
theorem transferNeverShort : Obligations.TransferNeverShort := by
  intro fuel dir length timeout s s' status h
  obtain ⟨hfits, -⟩ := performTransfer_outcome h
  cases status with
  | continuing => exact .inl ⟨rfl, hfits⟩
  | full n =>
    obtain ⟨rfl, hmoved⟩ := hfits
    exact .inr (.inl ⟨rfl, hmoved⟩)
  | failed why n =>
    obtain ⟨rfl, hlt, hwhy⟩ := hfits
    exact .inr (.inr ⟨why, rfl, hlt, hwhy⟩)

/-- Settles O25: the nine bytes moved are the bytes read from `TXBUF` at offsets 0 to 8. -/
theorem fullWriteDeliversPacket : Obligations.FullWriteDeliversPacket := by
  intro fuel timeout s s' p hp h
  obtain ⟨chunk, hlen, hchunk⟩ := exists_chunk_of_full h
  obtain ⟨hrx, hsent⟩ := hchunk.sent rfl
  have hpacket : chunk = p.toList := by
    refine List.ext_getElem? fun i => ?_
    rcases Nat.lt_or_ge i 9 with hi | hi
    · rw [← hsent i (by omega), Nat.zero_add, hp i hi]
      rfl
    · rw [List.getElem?_eq_none (by omega), List.getElem?_eq_none hi]
  subst hpacket
  exact ⟨hchunk.outbound, hchunk.inbound.trans (List.append_nil _), hchunk.txbuf, hrx⟩

/-- Settles O26: the nine bytes taken stand in `RXBUF` from offset 0. -/
theorem fullReadFillsBuffer : Obligations.FullReadFillsBuffer := by
  intro fuel timeout s s' h
  obtain ⟨chunk, hlen, hchunk⟩ := exists_chunk_of_full h
  obtain ⟨p, rfl⟩ := Packet.exists_toList_eq hlen
  have hmoved : s'.moved = 9 := by rw [hchunk.moved, hlen]
  refine ⟨p, fun off hoff => ?_, hchunk.inbound, hchunk.outbound.trans (List.append_nil _), hchunk.txbuf⟩
  rw [hchunk.received rfl off, if_pos ⟨Nat.zero_le off, hmoved ▸ hoff⟩]
  rfl

end Sys2Proof.Machine
end

section
/-! A pass of the session's transfers (45_sensor_session.md R248 to R252): `MOVED` rises, or the attempt ends as a
shortfall. -/

namespace Sys2Proof.Machine

open Sys2Proof.Config

/-! ### How a transition begins its pass (R37) -/

/-- The unit in a pass that begins with `m` bytes moved. -/
def State.inPass (m : Nat) (s : State) : State := { s with moved := m, progress := .moving }

/-- A transfer not in progress begins with nothing moved, one in progress goes on from `MOVED`. -/
theorem beginTransfer_eq {s : State} {m : Nat} {fresh : Progress} (hfresh : fresh ≠ .moving)
    (h : s.progress = fresh ∧ m = 0 ∨ s.progress = .moving ∧ m = s.moved) : beginTransfer s = s.inPass m := by
  unfold beginTransfer State.inPass
  obtain ⟨rfl, rfl⟩ | ⟨hmoving, rfl⟩ := h
  · rw [if_neg hfresh]
  · rw [if_pos hmoving, ← hmoving]

/-- In the loop of `PortConfigured` a command makes a pass of XFER_WRITE (R248). -/
theorem exec_of_portConfigured {i : Instr} {c : Byte} {s : State} (hi : commandCode i = some c) (hr : s.running = true)
    (hst : s.state = .portConfigured) (hp : s.progress ≠ .ready) :
    exec i s = attemptStep .write .requestSent .writeError s := by
  rw [exec_of_commandCode hi, session, if_pos hr, sessionStep, hst]
  exact (if_neg hp).trans (writeStep_eq_attemptStep s)

/-- In `RequestSent` READ_GAS makes a pass of XFER_READ (R250, R252). -/
theorem exec_readGas_of_requestSent {s : State} (hr : s.running = true) (hst : s.state = .requestSent) :
    exec .readGas s = attemptStep .read .responseReceived .readError s := by
  rw [exec_of_commandCode (i := .readGas) rfl, session, if_pos hr, sessionStep, hst]
  exact readStep_eq_attemptStep s

section SessionPass

variable {dir : Dir} {s s' : State} {m : Nat} {fresh : Progress}

/-- A transition's pass whose readiness check lets it go on is its underlying transfer, from `m` bytes (R203). -/
theorem sessionPass_readied (hd : dir ≠ .other) (hfresh : fresh ≠ .moving)
    (hprog : s.progress = fresh ∧ m = 0 ∨ s.progress = .moving ∧ m = s.moved) (hm : m < 9) (h : s.readied dir s') :
    transferPass dir pktLen s.session.timeoutS (beginTransfer s) = transferOnce dir pktLen (s'.inPass m) := by
  rw [beginTransfer_eq hfresh hprog]
  exact transferPass_readied hd hm h

/-- A transition's pass whose readiness check fails has failed with `m` bytes moved (R203, R208). -/
theorem sessionPass_unready {why : IoErr} (hd : dir ≠ .other) (hfresh : fresh ≠ .moving)
    (hprog : s.progress = fresh ∧ m = 0 ∨ s.progress = .moving ∧ m = s.moved) (hm : m < 9) (h : s.unready dir s' why) :
    transferPass dir pktLen s.session.timeoutS (beginTransfer s) = .next (.failed why m, s'.inPass m) := by
  rw [beginTransfer_eq hfresh hprog]
  exact transferPass_unready hd hm h

end SessionPass

/-- A readiness check that lets the pass go on changes the environment and the trace only. -/
theorem State.readied_eq {dir : Dir} {s s1 : State} (h : s.readied dir s1) :
    ∃ env trace, s1 = { s with env := env, trace := trace } := ⟨_, _, State.readied_frame h⟩

/-! ### What a transition makes of its pass (R248, R249, R251, R252) -/

section Attempt

variable {dir : Dir} {target : SessionState} {reason : Reason} {s t : State}

/-- `k` bytes more have moved: the session goes on to `target` when they are the last of the nine. -/
theorem attemptStep_of_advance {here : SessionState} {k : Nat} (hst : t.state = here) (hp : t.progress = .moving)
    (h : transferPass dir pktLen s.session.timeoutS (beginTransfer s) = .next (advance pktLen k t))
    (hle : t.moved + k ≤ 9) :
    attemptStep dir target reason s = .next
      { t with
        moved := t.moved + k
        state := if t.moved + k = 9 then target else here
        progress := if t.moved + k = 9 then .ready else .moving } := by
  subst hst
  rw [attemptStep, h, ← hp]
  rcases Nat.lt_or_ge (t.moved + k) pktLen with hlt | hge
  · have hmore : ¬ t.moved + k = 9 := Nat.ne_of_lt hlt
    rw [advance_of_lt hlt, if_neg hmore, if_neg hmore]
    rfl
  · have hfull : t.moved + k = 9 := Nat.le_antisymm hle hge
    rw [advance_of_le hge, if_pos hfull, if_pos hfull]
    rfl

theorem attemptStep_of_failed {why : IoErr} {m : Nat}
    (h : transferPass dir pktLen s.session.timeoutS (beginTransfer s) = .next (.failed why m, t)) :
    attemptStep dir target reason s = .next (shortfall why reason t) := by
  rw [attemptStep, h]
  rfl

end Attempt

/-! ### A shortfall (R234, R235) -/

theorem shortfall_of_budget_left {s : State} (h : s.remain ≠ 1) (why : IoErr) (reason : Reason) :
    shortfall why reason s =
      { s with ioerr := why, remain := s.remain - 1, state := .portConfigured, progress := .looping } :=
  if_neg fun hlast => h (by bv_omega)

theorem shortfall_of_last {s : State} (h : s.remain = 1) (hopen : s.fdOpen = true) (why : IoErr) (reason : Reason) :
    shortfall why reason s =
      { s with
        ioerr := why, remain := 0, reason := reason, state := .failed, fdOpen := false, closes := s.closes + 1
        running := false, progress := .ready
        env := (envClose s).2.env, trace := .close s.fd (envClose s).1 :: s.trace } := by
  have hlast : s.remain - 1 = 0 := by rw [h]; rfl
  rw [shortfall, if_pos hlast, takeFailure_of_open (s := { s with ioerr := why, remain := s.remain - 1 }) hopen, hlast]
  rfl

/-! ### The statements -/

/-- Settles O37: `TXBUF` gives the bytes from `MOVED` upward, and the loop's test on the new `MOVED` picks the state. -/
theorem commandWritePass : Obligations.CommandWritePass := by
  intro i c s s1 p a k m hi hr hst hprog hm hp hready ha hprogress
  have hnotReady : s.progress ≠ .ready := by obtain ⟨h, -⟩ | ⟨h, -⟩ := hprog <;> simp [h]
  have hpass := sessionPass_readied (by simp) (by simp) hprog hm hready
  obtain ⟨env, trace, rfl⟩ := State.readied_eq hready
  subst ha
  have hwrite := writeOnce_of_progress (length := pktLen) (s := State.inPass m { s with env := env, trace := trace })
    hm (memRead_packet (Nat.le_of_lt hm) hp) hprogress
  have hk : k ≤ 9 - m := by simpa [Packet.toList] using envWrite_progress_le hprogress
  rw [exec_of_portConfigured hi hr hst hnotReady]
  exact attemptStep_of_advance
    (t := (envWrite (p.toList.drop m) (State.inPass m { s with env := env, trace := trace })).2)
    hst rfl (hpass.trans hwrite) (Nat.add_le_of_le_sub' (Nat.le_of_lt hm) hk)

/-- Settles O40: the store begins at `RXBUF[MOVED]`, and the loop's test on the new `MOVED` picks the state. -/
theorem readGasReadPass : Obligations.ReadGasReadPass := by
  intro s s1 a bytes m hr hst hprog hm hready ha hprogress
  have hpass := sessionPass_readied (by simp) (by simp) hprog hm hready
  obtain ⟨env, trace, rfl⟩ := State.readied_eq hready
  subst ha
  have hread := readOnce_of_progress (length := pktLen) (s := State.inPass m { s with env := env, trace := trace })
    hm le_rfl hprogress
  have hle : m + bytes.length ≤ 9 := Nat.add_le_of_le_sub' (Nat.le_of_lt hm) (envRead_progress_le hprogress)
  refine ⟨Memory.store s.rxbuf m bytes, ?_, hle, fun j hj => ?stored, fun off hoff => ?kept⟩
  · rw [exec_readGas_of_requestSent hr hst]
    exact attemptStep_of_advance
      (t := { (envRead (9 - m) (State.inPass m { s with env := env, trace := trace })).2 with
              rxbuf := Memory.store s.rxbuf m bytes }) hst rfl (hpass.trans hread) hle
  case stored => rw [Memory.read?_store, if_pos (by omega), Nat.add_sub_cancel_left]
  case kept => rw [Memory.read?_store, if_neg (by omega)]

/-- Settles O41: a failed check and a `Fatal` answer both fail the pass with the count so far, which is then a
shortfall. -/
theorem readGasReadShortfall : Obligations.ReadGasReadShortfall := by
  intro s s1 s2 why m hr hst hprog hm hopen _ hfails
  obtain ⟨env, trace, rfl, hpass⟩ : ∃ env trace, s2 = { s with env := env, trace := trace } ∧
      transferPass .read pktLen s.session.timeoutS (beginTransfer s) =
        .next (.failed why m, s2.inPass m) := by
    obtain hunready | ⟨hready, hfatal, rfl, rfl⟩ := hfails
    · exact ⟨_, _, State.unready_frame hunready, sessionPass_unready (by simp) (by simp) hprog hm hunready⟩
    · have hpass := sessionPass_readied (by simp) (by simp) hprog hm hready
      obtain ⟨env, trace, rfl⟩ := State.readied_eq hready
      have hread := readOnce_of_fatal (length := pktLen)
        (s := State.inPass m { s with env := env, trace := trace }) hfatal
      exact ⟨_, _, rfl, hpass.trans hread⟩
  rw [exec_readGas_of_requestSent hr hst, attemptStep_of_failed hpass]
  refine ⟨fun hleft => ?budgetLeft, fun hlast => ?last⟩
  case budgetLeft =>
    exact congrArg _ (shortfall_of_budget_left (s := State.inPass m { s with env := env, trace := trace })
      hleft why .readError)
  case last =>
    exact congrArg _ (shortfall_of_last (s := State.inPass m { s with env := env, trace := trace })
      hlast hopen why .readError)

end Sys2Proof.Machine
end

section
/-! The transitions a host command makes (45_sensor_session.md R244 to R250), and what a step runs (log 7, log 8). -/

namespace Sys2Proof.Machine

open Sys2Proof.Config

/-! ### A command inside a session -/

/-- Inside a session a command makes the session's next transition (R239). -/
theorem exec_of_running {i : Instr} {c : Byte} {s : State} (hi : commandCode i = some c) (hr : s.running = true) :
    exec i s = sessionStep c s := by
  rw [exec_of_commandCode hi, session, if_pos hr]

section SessionStep

variable {cmd : Byte} {s : State}

theorem sessionStep_of_idle (hst : s.state = .idle) : sessionStep cmd s = .next (openDevice s) := by
  rw [sessionStep, hst]

theorem sessionStep_of_portOpened (hst : s.state = .portOpened) : sessionStep cmd s = .next (configurePort s) := by
  rw [sessionStep, hst]

theorem sessionStep_of_first_entry (hst : s.state = .portConfigured) (hp : s.progress = .ready) :
    sessionStep cmd s = selectRequest cmd s := by
  rw [sessionStep, hst]
  exact if_pos hp

theorem sessionStep_of_calibration_sent (hst : s.state = .requestSent) (hcmd : cmd ≠ 0) :
    sessionStep cmd s = .next (succeed s) := by
  rw [sessionStep, hst]
  exact if_neg hcmd

end SessionStep

/-! ### The device (R244) -/

theorem envOpen_eq {s : State} {a : OpenAnswer} (h : (envOpen s).1 = a) :
    envOpen s = (a, s.asked (envOpen s).2.env (.openDev s.session.dev a)) := by
  subst h
  rfl

theorem openDevice_of_ok {s : State} {fd : Nat} (h : (envOpen s).1 = .ok fd) :
    openDevice s =
      { s with fd := fd, fdOpen := true, opens := 1, state := .portOpened, progress := .ready
               env := (envOpen s).2.env, trace := .openDev s.session.dev (.ok fd) :: s.trace } := by
  rw [openDevice, envOpen_eq h]
  rfl

theorem openDevice_of_fail {s : State} (h : (envOpen s).1 = .fail) :
    openDevice s = takeFailure .openError (s.asked (envOpen s).2.env (.openDev s.session.dev .fail)) := by
  rw [openDevice, envOpen_eq h]
  rfl

/-- Settles O33: a failed open is taken with no descriptor held, so nothing is closed. -/
theorem commandOpensDevice : Obligations.CommandOpensDevice := by
  intro i c s hi hr hst
  rw [exec_of_running hi hr, sessionStep_of_idle hst]
  refine ⟨fun fd hok => ?opened, fun hfail hclosed => ?failed⟩
  case opened => rw [openDevice_of_ok hok]
  case failed =>
    rw [openDevice_of_fail hfail, takeFailure, closeAndFinish_of_not_open (s := s.asked _ _) hclosed]
    rfl

/-! ### The port (R245) -/

theorem configurePort_of_success {s s' : State} (h : configureSession s = (.success, s')) :
    configurePort s = { s' with state := .portConfigured, progress := .ready } := by
  rw [configurePort, h]

theorem configurePort_of_failed {s s' : State} {why : ConfigFailure} (h : configureSession s = (.failed why, s')) :
    configurePort s = takeFailure .configError { s' with cfgerr := why.toCfgErr } := by
  rw [configurePort, h]

/-- CONFIGURE leaves the descriptor and the ghost counters as they are (R180). -/
theorem configureSession_keeps_descriptor {s s' : State} {r : ConfigResult} (h : configureSession s = (r, s')) :
    s'.fd = s.fd ∧ s'.fdOpen = s.fdOpen ∧ s'.closes = s.closes := by
  obtain ⟨attr, env, evs, -, -, hframe⟩ :=
    configure_frame s.fd s.session.baud 3#8 s.session.dataBits s.session.parity s.session.stopBits s
  rw [← configureSession, h] at hframe
  subst hframe
  exact ⟨rfl, rfl, rfl⟩

/-- Settles O34: the failure is taken in the state CONFIGURE leaves, whose descriptor is the session's. -/
theorem commandConfiguresPort : Obligations.CommandConfiguresPort := by
  intro i c s s' r hi hr hst hopen hconf
  have hconf : configureSession s = (r, s') := hconf
  obtain ⟨hfd, hopen', hcloses⟩ := configureSession_keeps_descriptor hconf
  rw [exec_of_running hi hr, sessionStep_of_portOpened hst]
  refine ⟨?success, ?failed⟩
  case success =>
    rintro rfl
    rw [configurePort_of_success hconf]
  case failed =>
    rintro why rfl
    rw [configurePort_of_failed hconf,
      takeFailure_of_open (s := { s' with cfgerr := why.toCfgErr }) (hopen'.trans hopen), ← hfd, ← hcloses]
    rfl

/-! ### The request (R246, R247) -/

/-- Settles O35: at the first entry each command is `selectRequest` of its code, which is `armRequest` of the packet. -/
theorem commandSelectsRequest : Obligations.CommandSelectsRequest := by
  intro s hr hst hp
  have hselect : ∀ {i c}, commandCode i = some c → exec i s = selectRequest c s := fun hi =>
    (exec_of_running hi hr).trans (sessionStep_of_first_entry hst hp)
  exact ⟨hselect (i := .readGas) rfl, hselect (i := .calZero) rfl, fun _ => hselect (i := .calSpan) rfl⟩

theorem selectRequest_of_unrecognised {cmd : Byte} (h : 2 < cmd.toNat) (s : State) :
    selectRequest cmd s = .next (takeFailure .unsupportedCommand s) := by
  rw [selectRequest, if_neg (by bv_omega), if_neg (by bv_omega), if_neg (by bv_omega)]

/-- Settles O36: the step is `selectRequest` of a code that selects no packet. -/
theorem unrecognisedCommandFails : Obligations.UnrecognisedCommandFails := by
  intro s hr hst hp hopen hcmd
  rw [step_eq_sessionStep hr, sessionStep_of_first_entry hst hp, selectRequest_of_unrecognised hcmd,
    takeFailure_of_open hopen]

/-! ### The request sent (R249, R250) -/

/-- Settles O38: a failed check and a `Fatal` answer both fail the pass with the count so far, which is then a
shortfall. -/
theorem commandWriteShortfall : Obligations.CommandWriteShortfall := by
  intro i c s s1 s2 why p m hi hr hst hprog hm hopen _ hfails
  have hnotReady : s.progress ≠ .ready := by obtain ⟨h, -⟩ | ⟨h, -⟩ := hprog <;> simp [h]
  obtain ⟨env, trace, rfl, hpass⟩ : ∃ env trace, s2 = { s with env := env, trace := trace } ∧
      transferPass .write pktLen s.session.timeoutS (beginTransfer s) = .next (.failed why m, s2.inPass m) := by
    obtain hunready | ⟨hp, hready, hfatal, rfl, rfl⟩ := hfails
    · exact ⟨_, _, State.unready_frame hunready, sessionPass_unready (by simp) (by simp) hprog hm hunready⟩
    · have hpass := sessionPass_readied (by simp) (by simp) hprog hm hready
      obtain ⟨env, trace, rfl⟩ := State.readied_eq hready
      have hwrite := writeOnce_of_fatal (length := pktLen)
        (s := State.inPass m { s with env := env, trace := trace }) (memRead_packet (Nat.le_of_lt hm) hp) hfatal
      exact ⟨_, _, rfl, hpass.trans hwrite⟩
  rw [exec_of_portConfigured hi hr hst hnotReady, attemptStep_of_failed hpass]
  refine ⟨fun hleft => ?budgetLeft, fun hlast => ?last⟩
  case budgetLeft =>
    rw [shortfall_of_budget_left (s := State.inPass m { s with env := env, trace := trace }) hleft, ← hst]
    rfl
  case last =>
    exact congrArg _ (shortfall_of_last (s := State.inPass m { s with env := env, trace := trace })
      hlast hopen why .writeError)

/-- Settles O39: a calibration command ends the session in `RequestSent` as a success. -/
theorem calibrationEndsAfterSend : Obligations.CalibrationEndsAfterSend := by
  intro i s hi hr hst hopen
  obtain ⟨c, hc, hne⟩ : ∃ c, commandCode i = some c ∧ c ≠ 0 := by
    obtain rfl | rfl := hi
    · exact ⟨1, rfl, by decide⟩
    · exact ⟨2, rfl, by decide⟩
  rw [exec_of_running hc hr, sessionStep_of_calibration_sent hst hne, succeed_of_open hopen]

/-! ### What a step runs -/

theorem readPacket_of_memRead {m : Memory} {p : Packet} (h : memRead m 0 9 = .next p.toList) : readPacket m = .next p := by
  have hread : memRead m 0 pktLen = .next p.toList := h
  rw [readPacket, hread]
  rfl

/-- A command decoded from the sampled `CMD` is what the step of its session runs, wherever the session is. -/
theorem step_eq_exec_of_sampled {s : State} {i : Instr} (hr : s.running = true) (h : decode [s.session.cmd] = .ok i) :
    step s = exec i s := by
  rw [step_eq_sessionStep hr, exec_of_running (decode_singleton_eq_ok_iff.mp h) hr]

theorem step_of_host_call {s : State} {rest : List HostAction} (hr : s.running = false)
    (hhost : s.host = .processCommand :: rest) : step s = session s.cfg.cmd { s with host := rest } := by
  rw [step, if_neg (by simp [hr]), hostTurn, hhost]
  exact (if_pos rfl).trans (hostCall_eq_session _)

/-- Settles O43: a response is fetched from the packet its bytes are, a request is what `selectRequest` builds, a command is
its session. -/
theorem stepRunsDecodedInstruction : Obligations.StepRunsDecodedInstruction := by
  intro s i
  refine ⟨?response, ?request, fun hr _ _ h => step_eq_exec_of_sampled hr h, ?call⟩
  case response =>
    rintro hr hst ⟨bytes, hread, hdecode⟩ ⟨conc, reserved, ck, rfl⟩
    have hbytes : (responsePacket conc reserved ck).toList = bytes := encodeOfDecoded _ _ hdecode
    exact step_of_responseReceived hr hst (readPacket_of_memRead (hbytes ▸ hread))
  case request =>
    intro hr hst hp h
    rw [step_eq_sessionStep hr, sessionStep_of_first_entry hst hp, exec_of_requestInstr h]
  case call =>
    intro rest hr hhost h
    rw [step_of_host_call hr hhost, exec_of_commandCode (decode_singleton_eq_ok_iff.mp h)]

/-- Settles O44: `exec_of_fetchSession` for what a row stands for, the session procedure itself for the rest. -/
theorem stepAgreesWithSession : Obligations.StepAgreesWithSession := fun _ => step_eq_sessionStep

end Sys2Proof.Machine
end

section
/-! What a transition of a running session can be (45_sensor_session.md section 3), said once for a state that meets the
invariant: it goes on to a next state, or it ends the session. -/

namespace Sys2Proof.Machine

open Sys2Proof.Config

/-! ### The work of a transition -/

/-- From `s` to `s1` the unit has made the requests `evs`, newest first, none of which opens or closes, each on the descriptor
held; of the session it has changed at most results and the transfer in progress. -/
structure Worked (s s1 : State) (evs : List Event) : Prop where
  trace : s1.trace = evs ++ s.trace
  session : s1.session = s.session
  reason : s1.reason = s.reason
  running : s1.running = s.running
  opens : s1.opens = s.opens
  closes : s1.closes = s.closes
  fdOpen : s1.fdOpen = s.fdOpen
  fd : s1.fd = s.fd
  txbuf : s1.txbuf = s.txbuf
  rxbuf : Memory.wf s.rxbuf → Memory.wf s1.rxbuf
  moved : s.moved ≤ pktLen → s1.moved ≤ pktLen
  noOpen : ∀ e ∈ evs, e.isOpened = false
  noClose : ∀ e ∈ evs, e.isClose = false
  descriptor : ∀ e ∈ evs, e.descriptor = if s.fdOpen = true then some s.fd else none
  early : s.state = .idle ∨ s.state = .portOpened → ∀ e ∈ evs, e.isTransfer = false

theorem Worked.refl (s : State) : Worked s s [] where
  trace := rfl
  session := rfl
  reason := rfl
  running := rfl
  opens := rfl
  closes := rfl
  fdOpen := rfl
  fd := rfl
  txbuf := rfl
  rxbuf := id
  moved := id
  noOpen := by simp
  noClose := by simp
  descriptor := by simp
  early := by simp

/-- A device that could not be opened (R244). -/
theorem Worked.of_open_failed {s : State} (hclosed : s.fdOpen = false) (env : Env) (dev : Nat) :
    Worked s (s.asked env (.openDev dev .fail)) [.openDev dev .fail] :=
  { Worked.refl s with
    trace := rfl
    noOpen := by simp [Event.isOpened]
    noClose := by simp [Event.isClose]
    descriptor := by simp [Event.descriptor, hclosed]
    early := by simp [Event.isTransfer] }

/-- CONFIGURE on the descriptor held (R182, R245): none of its requests is a transfer or a shortfall. -/
theorem Worked.of_configureSession {s : State} (hopen : s.fdOpen = true) :
    ∃ evs, Worked s (configureSession s).2 evs ∧ evs.countP Event.isShortfall = 0 := by
  obtain ⟨attr, env, evs, hquiet, hfd, hframe⟩ :=
    configure_frame s.fd s.session.baud 3#8 s.session.dataBits s.session.parity s.session.stopBits s
  rw [configureSession, hframe]
  refine ⟨evs, { Worked.refl s with
    trace := rfl
    noOpen := fun e he => ?_
    noClose := fun e he => ?_
    descriptor := fun e he => by rw [hfd e he, if_pos hopen]
    early := fun _ e he => ?_ }, List.countP_eq_zero.mpr fun e he => ?_⟩ <;>
    obtain ⟨htransfer, hopened, hclose, hshort⟩ := hquiet e he
  · exact hopened
  · exact hclose
  · exact htransfer
  · simp [hshort]

/-! ### A pass of the attempt -/

/-- The two transfers of an attempt: the request out, for READ_GAS the response in (R248, R250). -/
inductive Leg (s : State) : Dir → SessionState → Reason → Prop
  | write (hst : s.state = .portConfigured) (hp : s.progress ≠ .ready) : Leg s .write .requestSent .writeError
  | read (hst : s.state = .requestSent) (hcmd : s.session.cmd = 0) : Leg s .read .responseReceived .readError

/-- The session is at a pass of one of the two, which begins with `m` bytes moved (R37). -/
structure Attempt (s : State) (dir : Dir) (target : SessionState) (reason : Reason) (m : Nat) : Prop where
  leg : Leg s dir target reason
  below : m < pktLen
  start : s.progress = .moving ∧ m = s.moved ∨ s.progress ≠ .moving ∧ m = 0

theorem Leg.inLoop {s : State} {dir : Dir} {target : SessionState} {reason : Reason} (h : Leg s dir target reason) :
    s.inLoop = true := by
  cases h with
  | write hst hp => simpa [State.inLoop, hst] using hp
  | read hst hcmd => simp [State.inLoop, hst]

theorem PassFrame.rxbuf_wf {dir : Dir} {s s' : State} {status : XferStatus} (h : PassFrame dir pktLen s status s')
    (hd : dir ≠ .other) (hwf : Memory.wf s.rxbuf) : Memory.wf s'.rxbuf := by
  obtain ⟨env, evs, k, rx, rfl, hle, -, -, -, -, -, hwrite, hread, -⟩ := h.frame
  cases dir with
  | write => rw [hwrite rfl]; exact hwf
  | read =>
    obtain ⟨bytes, rfl, rfl⟩ := hread rfl
    exact Memory.wf_store hwf hle
  | other => exact absurd rfl hd

/-- A pass is work of the session, and it fails by one request that is a shortfall (R234). -/
theorem Worked.of_pass {s s' : State} {dir : Dir} {target : SessionState} {reason : Reason} {m : Nat}
    {status : XferStatus} (hatt : Attempt s dir target reason m) (hopen : s.fdOpen = true)
    (hpass : PassFrame dir pktLen (s.inPass m) status s') :
    ∃ evs, Worked s s' evs
      ∧ ((∃ why n, status = .failed why n) → evs.countP Event.isShortfall = 1)
      ∧ ((∀ why n, status ≠ .failed why n) → evs.countP Event.isShortfall = 0) := by
  have hdir : dir ≠ .other := by cases hatt.leg <;> simp
  have hlate : s.state ≠ .idle ∧ s.state ≠ .portOpened := by cases hatt.leg <;> simp_all
  have hwf := hpass.rxbuf_wf hdir
  obtain ⟨env, evs, k, rx, rfl, hle, hevs, hfailed, hnotFailed, -, -, -, -, hfd⟩ := hpass.frame
  have hquiet : ∀ e ∈ evs, e.isOpened = false ∧ e.isClose = false := fun e he => (hevs e he).2
  refine ⟨evs, { Worked.refl s with
    trace := rfl
    rxbuf := hwf
    moved := fun _ => hle
    noOpen := fun e he => (hquiet e he).1
    noClose := fun e he => (hquiet e he).2
    descriptor := fun e he => by rw [hfd e he, if_pos hopen]; rfl
    early := fun h => absurd h (not_or.mpr hlate) }, fun h => (hfailed h).1, hnotFailed⟩

/-! ### The transitions -/

/-- What a transition of a running session can be: it goes on, in one of six ways, or it ends the session after some work. -/
inductive Transition (s : State) : State → Prop
  /-- The device is open (R244). -/
  | opened (hst : s.state = .idle) (env : Env) (fd : Nat) :
      Transition s { s with fd := fd, fdOpen := true, opens := 1, state := .portOpened, progress := .ready, env := env
                            trace := .openDev s.session.dev (.ok fd) :: s.trace }
  /-- CONFIGURE has not failed (R245). -/
  | configured {s1 : State} {evs : List Event} (hst : s.state = .portOpened) (hwork : Worked s s1 evs)
      (hshort : evs.countP Event.isShortfall = 0) :
      Transition s { s1 with state := .portConfigured, progress := .ready }
  /-- The request is built, the budget is loaded (R247). -/
  | armed (hst : s.state = .portConfigured) (hp : s.progress = .ready) {p : Packet} (hreq : p ∈ requestPacket s.session) :
      Transition s { s with txbuf := Memory.store s.txbuf 0 p.toList, remain := s.session.tries, progress := .looping }
  /-- A pass moved some of the bytes left, or none (R203). -/
  | moved {dir : Dir} {target : SessionState} {reason : Reason} {m : Nat} {s' : State}
      (hatt : Attempt s dir target reason m) (hpass : PassFrame dir pktLen (s.inPass m) .continuing s') : Transition s s'
  /-- A pass moved the last of them (R248, R252). -/
  | full {dir : Dir} {target : SessionState} {reason : Reason} {m n : Nat} {s' : State}
      (hatt : Attempt s dir target reason m) (hpass : PassFrame dir pktLen (s.inPass m) (.full n) s') :
      Transition s { s' with state := target, progress := .ready }
  /-- A shortfall with budget left (R234). -/
  | retried {dir : Dir} {target : SessionState} {reason : Reason} {m n : Nat} {why : IoErr} {s' : State}
      (hatt : Attempt s dir target reason m) (hpass : PassFrame dir pktLen (s.inPass m) (.failed why n) s')
      (hleft : s'.remain ≠ 1) :
      Transition s { s' with ioerr := why, remain := s'.remain - 1, state := .portConfigured, progress := .looping }
  /-- The session ends, as a success or with a reason (R255). -/
  | ended {s1 : State} {evs : List Event} {target : SessionState} {why : Reason} (hwork : Worked s s1 evs)
      (htarget : target = .done ∨ target = .failed) (hwhy : why = .configError → s.state = .portOpened) :
      Transition s (closeAndFinish target why s1)

theorem Transition.of_openDevice {s : State} (hst : s.state = .idle) (hclosed : s.fdOpen = false) :
    Transition s (openDevice s) := by
  cases h : (envOpen s).1 with
  | ok fd => rw [openDevice_of_ok h]; exact .opened hst _ fd
  | fail =>
    rw [openDevice_of_fail h]
    exact .ended (.of_open_failed hclosed _ _) (.inr rfl) (by simp)

theorem Transition.of_configurePort {s : State} (hst : s.state = .portOpened) (hopen : s.fdOpen = true) :
    Transition s (configurePort s) := by
  obtain ⟨evs, hwork, hshort⟩ := Worked.of_configureSession hopen
  have hnoOp := configureSession_ne_noOp s
  rcases h : configureSession s with ⟨r, s'⟩
  rw [h] at hwork hnoOp
  cases r with
  | success => rw [configurePort_of_success h]; exact .configured hst hwork hshort
  | noOp => exact absurd rfl hnoOp
  | failed why =>
    rw [configurePort_of_failed h]
    exact .ended { hwork with } (.inr rfl) fun _ => hst

/-- The first entry to `PortConfigured` arms the request packet of the sampled command, if it has one (R246, R247). -/
theorem selectRequest_eq (s : State) :
    selectRequest s.session.cmd s =
      match requestPacket s.session with
      | some p => armRequest p s
      | none => .next (takeFailure .unsupportedCommand s) := by
  unfold selectRequest requestPacket
  split_ifs <;> rfl

theorem Transition.of_selectRequest {s : State} (hst : s.state = .portConfigured) (hp : s.progress = .ready) :
    ∃ t, selectRequest s.session.cmd s = .next t ∧ Transition s t := by
  rw [selectRequest_eq]
  cases h : requestPacket s.session with
  | some p => exact ⟨_, armRequest_eq p s, .armed hst hp h⟩
  | none => exact ⟨_, rfl, .ended (.refl s) (.inr rfl) (by simp)⟩

/-- A pass that answers leaves a transition, whatever it answers. -/
theorem Transition.of_attemptStep {s s' : State} {dir : Dir} {target : SessionState} {reason : Reason} {m : Nat}
    {status : XferStatus} (hatt : Attempt s dir target reason m) (hopen : s.fdOpen = true)
    (hbegin : beginTransfer s = s.inPass m)
    (hpass : transferPass dir pktLen s.session.timeoutS (s.inPass m) = .next (status, s'))
    (hframe : PassFrame dir pktLen (s.inPass m) status s') :
    ∃ t, attemptStep dir target reason s = .next t ∧ Transition s t := by
  rw [attemptStep, hbegin, hpass]
  cases status with
  | full n => exact ⟨_, rfl, .full hatt hframe⟩
  | continuing => exact ⟨_, rfl, .moved hatt hframe⟩
  | failed why n =>
    refine ⟨_, rfl, ?_⟩
    by_cases hlast : s'.remain = 1
    · obtain ⟨evs, hwork, -, -⟩ := Worked.of_pass hatt hopen hframe
      have hzero : s'.remain - 1 = 0 := by rw [hlast]; rfl
      rw [shortfall, if_pos hzero]
      exact .ended { hwork with } (.inr rfl) (by cases hatt.leg <;> simp)
    · rw [shortfall_of_budget_left hlast]
      exact .retried hatt hframe hlast

theorem Transition.of_receive (p : Packet) (s : State) : Transition s (receive p s) := by
  cases h : parseGas p with
  | ok c =>
    rw [receive_of_ok h]
    exact .ended { Worked.refl s with } (.inl rfl) (by simp)
  | invalid why =>
    rw [receive_of_invalid h]
    exact .ended { Worked.refl s with } (.inr rfl) (by simp)

/-- The invariant says where a pass begins, and that fewer than nine bytes have moved (R37). -/
theorem State.Inv.attempt {s : State} (hinv : s.Inv) {dir : Dir} {target : SessionState} {reason : Reason}
    (hleg : Leg s dir target reason) : ∃ m, beginTransfer s = s.inPass m ∧ Attempt s dir target reason m := by
  obtain ⟨-, hmoving, -, -⟩ := hinv.progress
  obtain ⟨m, hbegin, ⟨hp, rfl⟩ | ⟨hp, rfl⟩⟩ := beginTransfer_cases s
  · exact ⟨_, hbegin, hleg, (hmoving hp).1, .inl ⟨hp, rfl⟩⟩
  · exact ⟨_, hbegin, hleg, by decide, .inr ⟨hp, rfl⟩⟩

theorem Transition.of_leg {s : State} (hinv : s.Inv) (hopen : s.fdOpen = true) {dir : Dir} {target : SessionState}
    {reason : Reason} (hleg : Leg s dir target reason) :
    ∃ t, attemptStep dir target reason s = .next t ∧ Transition s t := by
  obtain ⟨m, hbegin, hatt⟩ := hinv.attempt hleg
  obtain ⟨status, s', hpass, hframe⟩ : ∃ status s',
      transferPass dir pktLen s.session.timeoutS (s.inPass m) = .next (status, s')
        ∧ PassFrame dir pktLen (s.inPass m) status s' := by
    cases hleg with
    | write hst hp =>
      obtain ⟨p, -, hholds⟩ := hinv.request hatt.leg.inLoop
      exact transferPass_write (s := s.inPass m) (memRead_packet (Nat.le_of_lt hatt.below) hholds) hatt.below
    | read hst hcmd => exact transferPass_read (s := s.inPass m) le_rfl hatt.below
  exact Transition.of_attemptStep hatt hopen hbegin hpass hframe

/-- A running session that meets the invariant always goes on, by one of the transitions. -/
theorem transition_of_running {s : State} (hinv : s.Inv) (hr : s.running = true) :
    ∃ t, step s = .next t ∧ Transition s t := by
  obtain ⟨-, hlive⟩ := hinv.running
  obtain ⟨hdone, hfailed⟩ := hlive hr
  have hopen : s.fdOpen = s.busy := hinv.descriptor
  rw [step_eq_sessionStep hr]
  unfold State.busy at hopen
  cases hst : s.state <;> rw [hst] at hopen
  case idle => exact ⟨_, sessionStep_of_idle hst, .of_openDevice hst hopen⟩
  case portOpened => exact ⟨_, sessionStep_of_portOpened hst, .of_configurePort hst hopen⟩
  case portConfigured =>
    by_cases hp : s.progress = .ready
    · rw [sessionStep_of_first_entry hst hp]
      exact Transition.of_selectRequest hst hp
    · rw [sessionStep, hst]
      exact (if_neg hp).symm ▸ Transition.of_leg hinv hopen (.write hst hp)
  case requestSent =>
    by_cases hcmd : s.session.cmd = 0
    · rw [sessionStep, hst]
      exact (if_pos hcmd).symm ▸ Transition.of_leg hinv hopen (.read hst hcmd)
    · exact ⟨_, sessionStep_of_calibration_sent hst hcmd, .ended (.refl s) (.inl rfl) (by simp)⟩
  case responseReceived =>
    obtain ⟨p, hp⟩ := readPacket_of_full (hinv.response hst).2
    exact ⟨_, step_eq_sessionStep hr ▸ step_of_responseReceived hr hst hp, .of_receive p s⟩
  case done => exact absurd hst hdone
  case failed => exact absurd hst hfailed

/-- A step of a running session that meets the invariant is one of the transitions. -/
theorem transition_of_step {s t : State} (hinv : s.Inv) (hr : s.running = true) (h : step s = .next t) :
    Transition s t := by
  obtain ⟨t', hstep, htransition⟩ := transition_of_running hinv hr
  cases hstep.symm.trans h
  exact htransition

end Sys2Proof.Machine
end

section
/-! The invariant is kept by every step (10_state.md R33 to R38, 45_sensor_session.md R236, R258). -/

namespace Sys2Proof.Machine

open Sys2Proof.Config

/-! ### A session that is over -/

/-- A unit at rest meets the invariant when its resources are given back and its registers are in range. -/
theorem State.Inv.of_resting {t : State} (hr : t.running = false) (hbusy : t.busy = false) (hclosed : t.fdOpen = false)
    (hopens : t.opens ≤ 1) (hcloses : t.closes = t.opens) (hmoved : t.moved ≤ pktLen) (hp : t.progress = .ready)
    (hbuf : t.BuffersOk) : t.Inv := by
  have hstate := State.busy_eq_false_iff.mp hbusy
  have hloop : t.inLoop = false := by obtain h | h | h := hstate <;> simp [State.inLoop, h]
  have hreceived : t.state ≠ .responseReceived := by obtain h | h | h := hstate <;> simp [h]
  exact
    { running := ⟨fun _ => hbusy, by simp [hr]⟩
      descriptor := hclosed.trans hbusy.symm
      resource := ⟨hopens, by simp [hclosed, hcloses], by simp [hr]⟩
      budget := ⟨by simp [hr], by simp [hloop], by simp [hr]⟩
      request := fun h => by simp [hloop] at h
      progress := ⟨hmoved, by simp [hp], by simp [hp], by simp [hp]⟩
      response := fun h => absurd h hreceived
      buffers := hbuf }

/-- The end of a session closes what is still open (R255, R258). -/
theorem State.Inv.of_closeAndFinish {s s1 : State} {evs : List Event} {target : SessionState} {why : Reason}
    (hinv : s.Inv) (hwork : Worked s s1 evs) (htarget : target = .done ∨ target = .failed) :
    (closeAndFinish target why s1).Inv := by
  obtain ⟨hopens, hcloses, -⟩ := hinv.resource
  obtain ⟨hmoved, -⟩ := hinv.progress
  obtain ⟨htx, hrx⟩ := hinv.buffers
  have htx1 : Memory.wf s1.txbuf := hwork.txbuf ▸ htx
  rw [← hwork.opens] at hopens
  rw [← hwork.fdOpen, ← hwork.opens, ← hwork.closes] at hcloses
  rcases closeAndFinish_cases target why s1 with ⟨hfd, h⟩ | ⟨hfd, env, a, -, h⟩ <;> rw [h] <;> rw [hfd] at hcloses
  · refine .of_resting rfl ?_ hfd hopens hcloses (hwork.moved hmoved) rfl ⟨htx1, hwork.rxbuf hrx⟩
    rcases htarget with rfl | rfl <;> rfl
  · refine .of_resting rfl ?_ rfl hopens hcloses (hwork.moved hmoved) rfl ⟨htx1, hwork.rxbuf hrx⟩
    rcases htarget with rfl | rfl <;> split_ifs <;> rfl

/-! ### A session that goes on -/

/-- A busy unit meets the invariant when it holds the descriptor of its one open, and the rest of the invariant, which its
place in the session decides. -/
theorem State.Inv.of_busy {t : State} (hr : t.running = true) (hbusy : t.busy = true) (hopen : t.fdOpen = true)
    (hopens : t.opens = 1) (hcloses : t.closes = 0) (hbudget : t.BudgetOk) (hrequest : t.RequestOk)
    (hprogress : t.ProgressOk) (hresponse : t.ResponseOk) (hbuf : t.BuffersOk) : t.Inv := by
  have hstate : t.state ≠ .idle ∧ t.state ≠ .done ∧ t.state ≠ .failed := by
    simpa using mt State.busy_eq_false_iff.mpr (by simp [hbusy])
  exact
    { running := ⟨by simp [hr], fun _ => hstate.2⟩
      descriptor := hopen.trans hbusy.symm
      resource := ⟨hopens.le, by simp [hopen, hopens, hcloses], fun _ h => absurd h hstate.1⟩
      budget := hbudget
      request := hrequest
      progress := hprogress
      response := hresponse
      buffers := hbuf }

/-- A busy unit holds the descriptor of its one open (R258). -/
theorem State.Inv.held {s : State} (hinv : s.Inv) (hbusy : s.busy = true) :
    s.fdOpen = true ∧ s.opens = 1 ∧ s.closes = 0 := by
  have hopen : s.fdOpen = true := hinv.descriptor.trans hbusy
  obtain ⟨hopens, hcloses, -⟩ := hinv.resource
  rw [if_pos hopen] at hcloses
  exact ⟨hopen, by omega, by omega⟩

theorem State.Inv.of_opened {s : State} (hinv : s.Inv) (hr : s.running = true) (hst : s.state = .idle) (env : Env)
    (fd : Nat) :
    State.Inv { s with fd := fd, fdOpen := true, opens := 1, state := .portOpened, progress := .ready, env := env
                       trace := .openDev s.session.dev (.ok fd) :: s.trace } := by
  obtain ⟨-, hcloses, hopens⟩ := hinv.resource
  obtain ⟨htries, -, hshort⟩ := hinv.budget
  obtain ⟨hmoved, -⟩ := hinv.progress
  have hnone : s.trace.countP Event.isShortfall = 0 := hshort hr (by rw [State.inLoop, hst])
  have hclosed : s.closes = 0 := by have := hopens hr hst; omega
  exact .of_busy hr rfl rfl rfl hclosed
    (hbudget := ⟨htries, by simp [State.inLoop], fun _ _ => by simpa [Event.isShortfall] using hnone⟩)
    (hrequest := fun h => by simp [State.inLoop] at h)
    (hprogress := ⟨hmoved, by simp, by simp, by simp⟩)
    (hresponse := fun h => by simp at h)
    (hbuf := hinv.buffers)

theorem State.Inv.of_configured {s s1 : State} {evs : List Event} (hinv : s.Inv) (hr : s.running = true)
    (hst : s.state = .portOpened) (hwork : Worked s s1 evs) (hshort : evs.countP Event.isShortfall = 0) :
    State.Inv { s1 with state := .portConfigured, progress := .ready } := by
  obtain ⟨hopen, hopens, hcloses⟩ := hinv.held (by rw [State.busy, hst])
  obtain ⟨htries, -, hnone⟩ := hinv.budget
  obtain ⟨hmoved, -⟩ := hinv.progress
  obtain ⟨htx, hrx⟩ := hinv.buffers
  have hzero : s.trace.countP Event.isShortfall = 0 := hnone hr (by rw [State.inLoop, hst])
  exact .of_busy (hwork.running.trans hr) rfl (hwork.fdOpen.trans hopen) (hwork.opens.trans hopens)
    (hwork.closes.trans hcloses)
    (hbudget := ⟨fun _ => hwork.session ▸ htries hr, by simp [State.inLoop],
      fun _ _ => by simp [hwork.trace, hzero, hshort]⟩)
    (hrequest := fun h => by simp [State.inLoop] at h)
    (hprogress := ⟨hwork.moved hmoved, by simp, by simp, by simp⟩)
    (hresponse := fun h => by simp at h)
    (hbuf := ⟨hwork.txbuf ▸ htx, hwork.rxbuf hrx⟩)

theorem State.Inv.of_armed {s : State} (hinv : s.Inv) (hr : s.running = true) (hst : s.state = .portConfigured)
    (hp : s.progress = .ready) {p : Packet} (hreq : p ∈ requestPacket s.session) :
    State.Inv { s with txbuf := Memory.store s.txbuf 0 p.toList, remain := s.session.tries, progress := .looping } := by
  have hbusy : s.busy = true := by rw [State.busy, hst]
  obtain ⟨hopen, hopens, hcloses⟩ := hinv.held hbusy
  obtain ⟨htries, -, hnone⟩ := hinv.budget
  obtain ⟨hmoved, -⟩ := hinv.progress
  obtain ⟨htx, hrx⟩ := hinv.buffers
  have hzero : s.trace.countP Event.isShortfall = 0 := hnone hr (by simp [State.inLoop, hst, hp])
  exact .of_busy hr hbusy hopen hopens hcloses
    (hbudget := ⟨htries, fun _ => ⟨htries hr, by simp [hzero]⟩, by simp [State.inLoop, hst]⟩)
    (hrequest := fun _ => ⟨p, hreq, fun off hoff => read?_store_packet s.txbuf p hoff⟩)
    (hprogress := ⟨hmoved, by simp, fun _ => hst, by simp⟩)
    (hresponse := fun h => by simp [hst] at h)
    (hbuf := ⟨Memory.wf_store htx (by simp [Packet.toList, pktLen]), hrx⟩)

/-! ### A session in the loop -/

theorem State.busy_of_inLoop {s : State} (h : s.inLoop = true) : s.busy = true := by
  unfold State.inLoop at h
  unfold State.busy
  split at h <;> simp_all

/-- Work that stays in the loop keeps the invariant when each of its shortfalls has used up one unit of `REMAIN` (R236). -/
theorem State.Inv.of_loop {s t : State} {evs : List Event} (hinv : s.Inv) (hr : s.running = true)
    (hloop : s.inLoop = true) (hwork : Worked s t evs) (hstay : t.inLoop = true) (hremain : t.remain ≠ 0)
    (hused : t.remain.toNat + evs.countP Event.isShortfall = s.remain.toNat) (hprogress : t.ProgressOk)
    (hresponse : t.ResponseOk) : t.Inv := by
  obtain ⟨hopen, hopens, hcloses⟩ := hinv.held (State.busy_of_inLoop hloop)
  obtain ⟨htries, hbudget, -⟩ := hinv.budget
  obtain ⟨-, hsum⟩ := hbudget hloop
  obtain ⟨htx, hrx⟩ := hinv.buffers
  have hsession := hwork.session
  have hcount : t.remain.toNat + t.trace.countP Event.isShortfall = t.session.tries.toNat := by
    rw [hwork.trace, List.countP_append, hsession]
    omega
  exact .of_busy (hwork.running.trans hr) (State.busy_of_inLoop hstay) (hwork.fdOpen.trans hopen)
    (hwork.opens.trans hopens) (hwork.closes.trans hcloses)
    (hbudget := ⟨fun _ => hsession ▸ htries hr, fun _ => ⟨hremain, hcount⟩, by simp [hstay]⟩)
    (hrequest := fun _ => by rw [hsession, hwork.txbuf]; exact hinv.request hloop)
    (hprogress := hprogress)
    (hresponse := hresponse)
    (hbuf := ⟨hwork.txbuf ▸ htx, hwork.rxbuf hrx⟩)

/-- The bytes of `RXBUF` that an XFER_READ has written: those before the pass, and the pass's own (R205). -/
theorem PassFrame.rxbuf_written {s s' : State} {status : XferStatus} (h : PassFrame .read pktLen s status s')
    (hwritten : ∀ off < s.moved, (Memory.read? s.rxbuf off).isSome = true) :
    ∀ off < s'.moved, (Memory.read? s'.rxbuf off).isSome = true := by
  obtain ⟨env, evs, k, rx, rfl, -, -, -, -, -, -, -, hread, -⟩ := h.frame
  obtain ⟨bytes, rfl, rfl⟩ := hread rfl
  intro off hoff
  have hoff : off < s.moved + bytes.length := hoff
  simp only [Memory.read?_store]
  split_ifs with hnew
  · rw [List.getElem?_eq_getElem (by omega)]
    rfl
  · exact hwritten off (by omega)

/-- An XFER_READ under way has written the bytes it counts as moved, one that begins counts none (R205). -/
theorem Attempt.written {s : State} {target : SessionState} {reason : Reason} {m : Nat} (hinv : s.Inv)
    (h : Attempt s .read target reason m) : ∀ off < m, (Memory.read? s.rxbuf off).isSome = true := by
  obtain ⟨-, -, -, hwritten⟩ := hinv.progress
  cases h.leg with
  | read hst hcmd =>
    obtain ⟨hp, rfl⟩ | ⟨-, rfl⟩ := h.start
    · exact hwritten hp hst
    · intro off hoff
      exact absurd hoff (Nat.not_lt_zero off)

theorem Attempt.written_after {s s' : State} {dir : Dir} {target : SessionState} {reason : Reason} {m : Nat}
    {status : XferStatus} (hinv : s.Inv) (hatt : Attempt s dir target reason m)
    (hpass : PassFrame dir pktLen (s.inPass m) status s') (hd : dir = .read) :
    ∀ off < s'.moved, (Memory.read? s'.rxbuf off).isSome = true := by
  subst hd
  have hbefore := hatt.written hinv
  exact hpass.rxbuf_written hbefore

/-- In the loop there is budget left (R236). -/
theorem State.Inv.remain_ne_zero {s : State} (hinv : s.Inv) (hloop : s.inLoop = true) : s.remain ≠ 0 := by
  obtain ⟨-, hbudget, -⟩ := hinv.budget
  obtain ⟨hremain, -⟩ := hbudget hloop
  exact hremain

section InLoop

variable {s s' : State} {dir : Dir} {target : SessionState} {reason : Reason} {m : Nat}

theorem State.Inv.of_moved (hinv : s.Inv) (hr : s.running = true) (hatt : Attempt s dir target reason m)
    (hpass : PassFrame dir pktLen (s.inPass m) .continuing s') : s'.Inv := by
  have hloop := hatt.leg.inLoop
  obtain ⟨hopen, -, -⟩ := hinv.held (State.busy_of_inLoop hloop)
  have hremain := hinv.remain_ne_zero hloop
  obtain ⟨evs, hwork, -, hnone⟩ := Worked.of_pass hatt hopen hpass
  have hshort := hnone (by simp)
  have hwritten := hatt.written_after hinv hpass
  obtain ⟨env, _, k, rx, rfl, hle, -, -, -, hmore, -, -, -, -⟩ := hpass.frame
  have hlt : m + k < pktLen := hmore rfl
  cases hatt.leg with
  | write hst hp =>
    exact hinv.of_loop hr hloop hwork (by simp [State.inLoop, hst, State.inPass]) hremain (by rw [hshort]; rfl)
      ⟨hle, fun _ => ⟨hlt, .inl hst⟩, fun _ => hst, fun _ h => by simp [State.inPass, hst] at h⟩
      (fun h => by simp [State.inPass, hst] at h)
  | read hst hcmd =>
    exact hinv.of_loop hr hloop hwork (by simp [State.inLoop, hst, State.inPass]) hremain (by rw [hshort]; rfl)
      ⟨hle, fun _ => ⟨hlt, .inr ⟨hst, hcmd⟩⟩, by simp [State.inPass], fun _ _ => hwritten rfl⟩
      (fun h => by simp [State.inPass, hst] at h)

theorem State.Inv.of_full {n : Nat} (hinv : s.Inv) (hr : s.running = true) (hatt : Attempt s dir target reason m)
    (hpass : PassFrame dir pktLen (s.inPass m) (.full n) s') :
    State.Inv { s' with state := target, progress := .ready } := by
  have hloop := hatt.leg.inLoop
  obtain ⟨hopen, -, -⟩ := hinv.held (State.busy_of_inLoop hloop)
  have hremain := hinv.remain_ne_zero hloop
  obtain ⟨evs, hwork, -, hnone⟩ := Worked.of_pass hatt hopen hpass
  have hshort := hnone (by simp)
  have hwritten := hatt.written_after hinv hpass
  obtain ⟨env, _, k, rx, rfl, hle, -, -, -, -, hfull, -, -, -⟩ := hpass.frame
  obtain ⟨hall, -⟩ := hfull n rfl
  refine hinv.of_loop (evs := evs) hr hloop { hwork with } ?_ hremain (by rw [hshort]; rfl)
    ⟨hle, by simp, by simp, by simp⟩ ?_
  · cases hatt.leg <;> rfl
  · cases hatt.leg with
    | write hst hp => intro h; cases h
    | read hst hcmd =>
      refine fun _ => ⟨hcmd, List.all_eq_true.mpr fun off hoff => hwritten rfl off ?_⟩
      exact hall ▸ List.mem_range.mp hoff

theorem State.Inv.of_retried {n : Nat} {why : IoErr} (hinv : s.Inv) (hr : s.running = true)
    (hatt : Attempt s dir target reason m) (hpass : PassFrame dir pktLen (s.inPass m) (.failed why n) s')
    (hleft : s'.remain ≠ 1) :
    State.Inv { s' with ioerr := why, remain := s'.remain - 1, state := .portConfigured, progress := .looping } := by
  have hloop := hatt.leg.inLoop
  obtain ⟨hopen, -, -⟩ := hinv.held (State.busy_of_inLoop hloop)
  have hremain := hinv.remain_ne_zero hloop
  obtain ⟨evs, hwork, hone, -⟩ := Worked.of_pass hatt hopen hpass
  have hshort := hone ⟨why, n, rfl⟩
  obtain ⟨env, _, k, rx, rfl, hle, -⟩ := hpass.frame
  have hleft : s.remain ≠ 1 := hleft
  exact hinv.of_loop (evs := evs) hr hloop { hwork with } rfl
    (hremain := show s.remain - 1 ≠ 0 by bv_omega)
    (hused := show (s.remain - 1).toNat + evs.countP Event.isShortfall = s.remain.toNat by rw [hshort]; bv_omega)
    ⟨hle, by simp, by simp, by simp⟩ (fun h => by simp at h)

end InLoop

/-! ### Every step -/

theorem Transition.inv {s t : State} (hinv : s.Inv) (hr : s.running = true) (h : Transition s t) : t.Inv := by
  cases h with
  | opened hst env fd => exact hinv.of_opened hr hst env fd
  | configured hst hwork hshort => exact hinv.of_configured hr hst hwork hshort
  | armed hst hp hreq => exact hinv.of_armed hr hst hp hreq
  | moved hatt hpass => exact hinv.of_moved hr hatt hpass
  | full hatt hpass => exact hinv.of_full hr hatt hpass
  | retried hatt hpass hleft => exact hinv.of_retried hr hatt hpass hleft
  | ended hwork htarget hwhy => exact hinv.of_closeAndFinish hwork htarget

/-- A start is taken at rest, with every descriptor given back and at least one attempt allowed (R230, R233). -/
theorem State.Inv.of_started {s : State} (hinv : s.Inv) (hbusy : s.busy = false) (htries : s.cfg.tries ≠ 0)
    (cmd : Byte) : (started cmd s).Inv := by
  have hclosed : s.fdOpen = false := hinv.descriptor.trans hbusy
  exact
    { running := ⟨by simp, by simp⟩
      descriptor := hclosed
      resource := ⟨by simp, by simp [hclosed], by simp⟩
      budget := ⟨fun _ => htries, by simp [State.inLoop], by simp⟩
      request := fun h => by simp [State.inLoop] at h
      progress := ⟨hinv.progress.1, by simp, by simp, by simp⟩
      response := fun h => by simp at h
      buffers := hinv.buffers }

/-- The invariant does not speak of the host's registers and actions. -/
theorem State.Inv.of_host {s : State} (hinv : s.Inv) (cfg : ConfigRegs) (host : List HostAction) :
    State.Inv { s with cfg := cfg, host := host } :=
  { running := hinv.running
    descriptor := hinv.descriptor
    resource := hinv.resource
    budget := hinv.budget
    request := hinv.request
    progress := hinv.progress
    response := hinv.response
    buffers := hinv.buffers }

/-- The invariant of the machine is kept: by a resting unit's step, and by every transition of a session. -/
theorem State.Inv.step {s t : State} (hinv : s.Inv) (h : step s = .next t) : t.Inv := by
  cases hr : s.running with
  | true => exact (transition_of_step hinv hr h).inv hinv hr
  | false =>
    obtain ⟨-, rfl⟩ | ⟨a, rest, -, -, -, rfl⟩ | ⟨rest, -, hbusy, htries, rfl⟩ := step_of_resting hr h
    · exact hinv
    · exact hinv.of_host _ _
    · exact (hinv.of_host s.cfg rest).of_started hbusy htries _

end Sys2Proof.Machine
end

section
/-! The requests of a session and what becomes of its resources (45_sensor_session.md R258, 10_state.md R40). -/

namespace Sys2Proof.Machine

open Sys2Proof.Config

/-! ### The requests of a transition -/

/-- From `s` to `t` the requests `evs` have been made, newest first: the ghost counters count them, each is made on the
descriptor held, an open gains it, a close as the last one gives it up. -/
structure Accounted (s t : State) (evs : List Event) : Prop where
  trace : t.trace = evs ++ s.trace
  opens : t.opens = s.opens + evs.countP Event.isOpened
  closes : t.closes = s.closes + evs.countP Event.isClose
  descriptor : ∀ e ∈ evs, e.descriptor = if s.fdOpen = true then some s.fd else none
  gained : s.fdOpen = false → evs.countP Event.isOpened = if t.fdOpen = true then 1 else 0
  closeLast : ∀ e ∈ evs.tail, e.isClose = false
  givenUp : s.fdOpen = true → evs.countP Event.isClose = if t.fdOpen = true then 0 else 1

theorem Worked.countP_isOpened {s s1 : State} {evs : List Event} (h : Worked s s1 evs) :
    evs.countP Event.isOpened = 0 :=
  List.countP_eq_zero.mpr fun e he => by simp [h.noOpen e he]

theorem Worked.countP_isClose {s s1 : State} {evs : List Event} (h : Worked s s1 evs) :
    evs.countP Event.isClose = 0 :=
  List.countP_eq_zero.mpr fun e he => by simp [h.noClose e he]

theorem Accounted.of_worked {s t : State} {evs : List Event} (h : Worked s t evs) : Accounted s t evs where
  trace := h.trace
  opens := by rw [h.countP_isOpened, h.opens, Nat.add_zero]
  closes := by rw [h.countP_isClose, h.closes, Nat.add_zero]
  descriptor := h.descriptor
  gained hclosed := by simp [h.countP_isOpened, h.fdOpen, hclosed]
  closeLast e he := h.noClose e (List.mem_of_mem_tail he)
  givenUp hopen := by simp [h.countP_isClose, h.fdOpen, hopen]

/-- An open answered `Ok`, the first of its session (R244). -/
theorem Accounted.of_opened {s : State} (hclosed : s.fdOpen = false) (hopens : s.opens = 0) (env : Env) (fd : Nat) :
    Accounted s
      { s with fd := fd, fdOpen := true, opens := 1, state := .portOpened, progress := .ready, env := env
               trace := .openDev s.session.dev (.ok fd) :: s.trace } [.openDev s.session.dev (.ok fd)] where
  trace := rfl
  opens := by rw [hopens]; rfl
  closes := rfl
  descriptor := by simp [Event.descriptor, hclosed]
  gained _ := rfl
  closeLast := by simp
  givenUp hopen := by simp [hclosed] at hopen

/-- The end of a session that holds the descriptor adds its close (R255). -/
theorem Accounted.of_closed {s s1 : State} {evs : List Event} (h : Worked s s1 evs) (hopen : s.fdOpen = true) (env : Env)
    (a : Ack) (target : SessionState) (why : Reason) :
    Accounted s (finish target why (s1.asked env (.close s1.fd a)).closed) (.close s1.fd a :: evs) where
  trace := by simp [h.trace]
  opens := by simp [h.opens, h.countP_isOpened, Event.isOpened]
  closes := by simp [List.countP_cons, h.closes, h.countP_isClose, Event.isClose]
  descriptor e he := by
    obtain rfl | he := List.mem_cons.mp he
    · simp [Event.descriptor, hopen, h.fd]
    · exact h.descriptor e he
  gained hclosed := by simp [hclosed] at hopen
  closeLast := h.noClose
  givenUp _ := by simp [List.countP_cons, h.countP_isClose, Event.isClose]

theorem Accounted.of_closeAndFinish {s s1 : State} {evs : List Event} (h : Worked s s1 evs) (target : SessionState)
    (why : Reason) : ∃ all, Accounted s (closeAndFinish target why s1) all := by
  rcases closeAndFinish_cases target why s1 with ⟨-, heq⟩ | ⟨hopen, env, a, -, heq⟩ <;> rw [heq]
  · exact ⟨evs, { Accounted.of_worked h with }⟩
  · exact ⟨_, .of_closed h (h.fdOpen.symm.trans hopen) env a _ _⟩

theorem Transition.accounted {s t : State} (hinv : s.Inv) (hr : s.running = true) (h : Transition s t) :
    ∃ evs, Accounted s t evs := by
  have hpass : ∀ {dir target reason m status s'}, Attempt s dir target reason m →
      PassFrame dir pktLen (s.inPass m) status s' → ∃ evs, Accounted s s' evs := fun hatt hframe => by
    obtain ⟨hopen, -, -⟩ := hinv.held (State.busy_of_inLoop hatt.leg.inLoop)
    obtain ⟨evs, hwork, -, -⟩ := Worked.of_pass hatt hopen hframe
    exact ⟨evs, .of_worked hwork⟩
  cases h with
  | opened hst env fd =>
    have hclosed : s.fdOpen = false := hinv.descriptor.trans (by rw [State.busy, hst])
    obtain ⟨-, -, hopens⟩ := hinv.resource
    exact ⟨_, .of_opened hclosed (hopens hr hst) env fd⟩
  | configured hst hwork hshort => exact ⟨_, { Accounted.of_worked hwork with }⟩
  | armed hst hp hreq => exact ⟨_, { Accounted.of_worked (Worked.refl s) with }⟩
  | moved hatt hframe => exact hpass hatt hframe
  | full hatt hframe =>
    obtain ⟨evs, hacc⟩ := hpass hatt hframe
    exact ⟨evs, { hacc with }⟩
  | retried hatt hframe hleft =>
    obtain ⟨evs, hacc⟩ := hpass hatt hframe
    exact ⟨evs, { hacc with }⟩
  | ended hwork htarget hwhy => exact Accounted.of_closeAndFinish hwork _ _

theorem accounted_of_step {s t : State} (hinv : s.Inv) (hr : s.running = true) (h : step s = .next t) :
    ∃ evs, Accounted s t evs := (transition_of_step hinv hr h).accounted hinv hr

/-- Settles O60: a transition's requests are accounted for, and a resting unit's step makes none. -/
theorem requestsUseHeldDescriptor : Obligations.RequestsUseHeldDescriptor := by
  intro s t hinv h
  refine ⟨fun hr => ?resting, fun hr => ?running⟩
  case resting =>
    obtain ⟨-, rfl⟩ | ⟨_, _, -, -, -, rfl⟩ | ⟨_, -, -, -, rfl⟩ := step_of_resting hr h
    · exact .inl rfl
    · exact .inl rfl
    · exact .inr rfl
  case running =>
    obtain ⟨evs, hacc⟩ := accounted_of_step hinv hr h
    refine ⟨evs, hacc.trace, fun hclosed => ⟨fun e he => ?_, hacc.gained hclosed⟩,
      fun hopen => ⟨fun e he => ?_, hacc.closeLast, hacc.givenUp hopen⟩⟩
    · rw [hacc.descriptor e he, hclosed]
      rfl
    · rw [hacc.descriptor e he, if_pos hopen]

/-! ### The counts along a run -/

theorem Accounted.traceCounts {s t : State} {evs : List Event} (h : Accounted s t evs) (hs : s.TraceCounts) :
    t.TraceCounts := by
  obtain ⟨hopens, hcloses⟩ := hs
  constructor
  · rw [h.trace, List.countP_append, h.opens, hopens, Nat.add_comm]
  · rw [h.trace, List.countP_append, h.closes, hcloses, Nat.add_comm]

theorem State.TraceCounts.step {s t : State} (hcounts : s.TraceCounts) (hinv : s.Inv) (h : step s = .next t) :
    t.TraceCounts := by
  cases hr : s.running with
  | true =>
    obtain ⟨evs, hacc⟩ := accounted_of_step hinv hr h
    exact hacc.traceCounts hcounts
  | false =>
    obtain ⟨-, rfl⟩ | ⟨_, _, -, -, -, rfl⟩ | ⟨_, -, -, -, rfl⟩ := step_of_resting hr h
    · exact hcounts
    · exact hcounts
    · exact ⟨rfl, rfl⟩

/-- What holds at the start and is kept by every step holds at the end of every run. -/
theorem run_keeps {P : State → Prop} (hstep : ∀ {s t}, P s → step s = .next t → P t) {n : Nat} {s t : State} (hs : P s)
    (h : Host.Core.run core n s = .next t) : P t := by
  induction n generalizing s with
  | zero => cases h; exact hs
  | succ n ih =>
    cases hnext : step s with
    | next s' =>
      rw [run_of_step_next core n hnext] at h
      exact ih (hstep hs hnext) h
    | fault r =>
      rw [run_of_step_fault core n hnext] at h
      cases h
    | refused r =>
      rw [run_of_step_refused core n hnext] at h
      cases h

/-- A unit at rest that meets the invariant has given everything back (R258). -/
theorem State.Inv.released {s : State} (hinv : s.Inv) (hr : s.running = false) :
    s.opens ≤ 1 ∧ s.closes = s.opens ∧ s.fdOpen = false := by
  have hclosed : s.fdOpen = false := hinv.descriptor.trans (hinv.running.1 hr)
  obtain ⟨hopens, hcloses, -⟩ := hinv.resource
  exact ⟨hopens, by simpa [hclosed] using hcloses, hclosed⟩

/-- Settles O51: every step keeps the invariant and the counts together, and the invariant of a resting unit is that
everything has been given back. -/
theorem resourcesReleasedAlongRuns : Obligations.ResourcesReleasedAlongRuns := by
  intro n s t hinv hcounts h
  obtain ⟨hinv', hcounts'⟩ := run_keeps (P := fun s => s.Inv ∧ s.TraceCounts)
    (fun ⟨hinv, hcounts⟩ hstep => ⟨hinv.step hstep, hcounts.step hinv hstep⟩) ⟨hinv, hcounts⟩ h
  exact ⟨hcounts', hinv'.released⟩

end Sys2Proof.Machine
end

section
/-! How a transition of a running session leaves its status registers (10_state.md R30 to R32, R256, R286), and the request
it keeps (R247). -/

namespace Sys2Proof.Machine

open Sys2Proof.Config

/-! ### Going on or ending -/

/-- The session goes on: no reason is recorded, and `PortOpened` is entered from Idle alone. -/
structure GoesOn (s t : State) : Prop where
  running : t.running = true
  reason : t.reason = s.reason
  notIdle : t.state ≠ .idle
  opened : t.state = .portOpened → s.state = .idle

/-- `processCommand` returns, in Done or in Failed; ConfigError is the reason of a failure in `PortOpened` only. -/
structure Ends (s t : State) : Prop where
  running : t.running = false
  state : t.state = .done ∨ t.state = .failed
  reason : t.reason = .configError → s.state = .portOpened

theorem Ends.of_closeAndFinish {s s1 : State} {target : SessionState} {why : Reason}
    (htarget : target = .done ∨ target = .failed) (hwhy : why = .configError → s.state = .portOpened) :
    Ends s (closeAndFinish target why s1) := by
  rcases closeAndFinish_cases target why s1 with ⟨-, h⟩ | ⟨-, env, a, -, h⟩ <;> rw [h]
  · exact ⟨rfl, htarget, hwhy⟩
  · split_ifs
    · exact ⟨rfl, .inr rfl, fun h => by cases h⟩
    · exact ⟨rfl, htarget, hwhy⟩

theorem Transition.goesOn_or_ends {s t : State} (hr : s.running = true) (h : Transition s t) :
    GoesOn s t ∨ Ends s t := by
  have hpass : ∀ {dir target reason m status s'}, Attempt s dir target reason m →
      PassFrame dir pktLen (s.inPass m) status s' →
      s'.running = true ∧ s'.reason = s.reason ∧ s'.state = s.state := fun hatt hframe => by
    obtain ⟨env, evs, k, rx, rfl, -⟩ := hframe.frame
    exact ⟨hr, rfl, rfl⟩
  cases h with
  | opened hst env fd => exact .inl ⟨hr, rfl, by simp, fun _ => hst⟩
  | configured hst hwork hshort => exact .inl ⟨hwork.running.trans hr, hwork.reason, by simp, by simp⟩
  | armed hst hp hreq => exact .inl ⟨hr, rfl, by simp [hst], by simp [hst]⟩
  | moved hatt hframe =>
    obtain ⟨hrunning, hreason, hstate⟩ := hpass hatt hframe
    exact .inl ⟨hrunning, hreason, by cases hatt.leg <;> simp_all, by cases hatt.leg <;> simp_all⟩
  | full hatt hframe =>
    obtain ⟨hrunning, hreason, -⟩ := hpass hatt hframe
    exact .inl ⟨hrunning, hreason, by cases hatt.leg <;> simp, by cases hatt.leg <;> simp⟩
  | retried hatt hframe hleft =>
    obtain ⟨hrunning, hreason, -⟩ := hpass hatt hframe
    exact .inl ⟨hrunning, hreason, by simp, by simp⟩
  | ended hwork htarget hwhy => exact .inr (.of_closeAndFinish htarget hwhy)

/-! ### The return of `processCommand` (R256) -/

theorem returnCode_eq_success_iff {s : State} : s.returnCode = some .success ↔ s.state = .done := by
  unfold State.returnCode
  cases s.state <;> simp

theorem returnCode_eq_failure_iff {s : State} {why : Reason} :
    s.returnCode = some (.failure why) ↔ s.state = .failed ∧ s.reason = why := by
  unfold State.returnCode
  cases s.state <;> simp

theorem returnCode_ne_none_iff {s : State} : s.returnCode ≠ none ↔ s.state = .done ∨ s.state = .failed := by
  unfold State.returnCode
  cases s.state <;> simp

/-- Settles O47: a session that ends is in Done or Failed, and one that goes on meets the invariant and so is in neither. -/
theorem statusCodes : Obligations.StatusCodes := by
  refine ⟨rfl, rfl, rfl, rfl, rfl, fun _ => rfl,
    fun _ => ⟨returnCode_eq_success_iff, fun _ => returnCode_eq_failure_iff⟩, fun s t hinv hr h => ?_⟩
  rw [returnCode_ne_none_iff]
  obtain hgoes | hends := (transition_of_step hinv hr h).goesOn_or_ends hr
  · obtain ⟨hdone, hfailed⟩ := (hinv.step h).running.2 hgoes.running
    simp [hgoes.running, hdone, hfailed]
  · simp [hends.running, hends.state]

/-! ### No transfer before `PortConfigured` (R286) -/

/-- A transition from Idle or PortOpened makes no transfer: it opens, it configures, or it fails. -/
theorem Transition.no_early_transfer {s t : State} (h : Transition s t)
    (hst : s.state = .idle ∨ s.state = .portOpened) (hnone : s.trace.all (fun e => !e.isTransfer) = true) :
    t.trace.all (fun e => !e.isTransfer) = true := by
  have hwork : ∀ {s1 evs}, Worked s s1 evs → s1.trace.all (fun e => !e.isTransfer) = true := fun h => by
    rw [h.trace, List.all_append, hnone, Bool.and_true, List.all_eq_true]
    exact fun e he => by simp [h.early hst e he]
  have hatt : ∀ {dir target reason m}, ¬ Attempt s dir target reason m := fun hatt => by
    cases hatt.leg <;> simp_all
  cases h with
  | opened _ env fd => simpa [Event.isTransfer] using hnone
  | configured _ h _ =>
    have hnone := hwork h
    exact hnone
  | armed h _ _ => simp [h] at hst
  | moved h _ => exact absurd h hatt
  | full h _ => exact absurd h hatt
  | retried h _ _ => exact absurd h hatt
  | @ended s1 _ target why h _ _ =>
    have hnone := hwork h
    rcases closeAndFinish_cases target why s1 with ⟨-, heq⟩ | ⟨-, env, a, -, heq⟩ <;> rw [heq]
    · exact hnone
    · simpa [Event.isTransfer] using hnone

/-- Settles O52: ConfigError is the reason of a session that `PortOpened` ended, and until then no transfer is made. -/
theorem configErrorsBeforeTransfers : Obligations.ConfigErrorsBeforeTransfers := by
  rintro s t hinv ⟨hreason, hearly, hconfig⟩ h
  cases hr : s.running with
  | true =>
    have htransition := transition_of_step hinv hr h
    have hkeep := fun hst => htransition.no_early_transfer hst (hearly hr hst)
    obtain hgoes | hends := htransition.goesOn_or_ends hr
    · have hnone : t.reason = .none := hgoes.reason.trans (hreason hr)
      refine ⟨fun _ => hnone, fun _ hst => hkeep (.inl (hgoes.opened (hst.resolve_left hgoes.notIdle))), ?_⟩
      simp [hnone]
    · exact ⟨by simp [hends.running], by simp [hends.running], fun h => hkeep (.inr (hends.reason h))⟩
  | false =>
    obtain ⟨-, rfl⟩ | ⟨_, _, -, -, -, rfl⟩ | ⟨_, -, -, -, rfl⟩ := step_of_resting hr h
    · exact ⟨hreason, hearly, hconfig⟩
    · exact ⟨hreason, hearly, hconfig⟩
    · exact ⟨fun _ => rfl, fun _ _ => rfl, fun _ => rfl⟩

/-! ### The request is kept (R247) -/

@[simp] theorem closeAndFinish_txbuf (target : SessionState) (why : Reason) (s : State) :
    (closeAndFinish target why s).txbuf = s.txbuf := by
  obtain ⟨-, -, -, -, htx, -⟩ := closeAndFinish_frame target why s
  exact htx

@[simp] theorem shortfall_txbuf (why : IoErr) (reason : Reason) (s : State) :
    (shortfall why reason s).txbuf = s.txbuf := by
  unfold shortfall
  split_ifs
  · exact closeAndFinish_txbuf _ _ _
  · rfl

theorem attemptStep_txbuf {dir : Dir} {target : SessionState} {reason : Reason} {s t : State}
    (h : attemptStep dir target reason s = .next t) : t.txbuf = s.txbuf := by
  obtain ⟨⟨status, s'⟩, hpass, hnext⟩ := thenDo_eq_next h
  obtain ⟨m, hbegin, -⟩ := beginTransfer_cases s
  rw [hbegin] at hpass
  obtain ⟨_, _, _, _, rfl⟩ := transferPass_xferFrame le_rfl hpass
  cases status <;> cases hnext
  · rfl
  · rfl
  · exact shortfall_txbuf _ _ _

theorem receive_txbuf (p : Packet) (s : State) : (receive p s).txbuf = s.txbuf := by
  cases h : parseGas p with
  | ok c => rw [receive_of_ok h]; exact closeAndFinish_txbuf _ _ _
  | invalid why => rw [receive_of_invalid h]; exact closeAndFinish_txbuf _ _ _

/-- Settles O55: in the loop a transition is a pass, the end of a calibration, or the receipt of the response. -/
theorem requestNotRebuilt : Obligations.RequestNotRebuilt := by
  intro s t hr hloop h
  rw [step_eq_sessionStep hr, sessionStep] at h
  unfold State.inLoop at hloop
  cases hst : s.state <;> rw [hst] at h hloop
  case portConfigured =>
    have hp : s.progress ≠ .ready := by simpa using hloop
    exact attemptStep_txbuf (writeStep_eq_attemptStep s ▸ (if_neg hp).symm.trans h)
  case requestSent =>
    simp only at h
    split_ifs at h
    · exact attemptStep_txbuf (readStep_eq_attemptStep s ▸ h)
    · cases h
      exact closeAndFinish_txbuf _ _ s
  case responseReceived =>
    obtain ⟨p, -, hreceive⟩ := thenDo_eq_next h
    cases hreceive
    exact receive_txbuf p s
  all_goals cases hloop

end Sys2Proof.Machine
end

section
/-! The `DIRECTION` register (45_sensor_session.md R231): every operation of a session does the same with another value in
it. -/

namespace Sys2Proof.Machine

open Sys2Proof.Config

/-- The unit with other values in the `DIRECTION` register and in its sampled copy. -/
def State.withDirection (d e : Byte) (s : State) : State :=
  { s with cfg := { s.cfg with direction := d }, session := { s.session with direction := e } }

section Direction

variable (d e : Byte)

/-! ### The ends of a session (R255) -/

theorem closeAndFinish_withDirection (target : SessionState) (why : Reason) (s : State) :
    closeAndFinish target why (s.withDirection d e) = (closeAndFinish target why s).withDirection d e := by
  cases hopen : s.fdOpen with
  | true => rw [closeAndFinish_of_open hopen, closeAndFinish_of_open (s := s.withDirection d e) hopen]; rfl
  | false => rw [closeAndFinish_of_not_open hopen, closeAndFinish_of_not_open (s := s.withDirection d e) hopen]; rfl

theorem shortfall_withDirection (why : IoErr) (reason : Reason) (s : State) :
    shortfall why reason (s.withDirection d e) = (shortfall why reason s).withDirection d e := by
  by_cases hlast : s.remain - 1 = 0
  · have hlast' : (s.withDirection d e).remain - 1 = 0 := hlast
    rw [shortfall, shortfall, if_pos hlast, if_pos hlast']
    exact closeAndFinish_withDirection d e .failed reason { s with ioerr := why, remain := s.remain - 1 }
  · have hleft : ¬ (s.withDirection d e).remain - 1 = 0 := hlast
    rw [shortfall, shortfall, if_neg hlast, if_neg hleft]
    rfl

theorem receive_withDirection (p : Packet) (s : State) :
    receive p (s.withDirection d e) = (receive p s).withDirection d e := by
  cases hp : parseGas p with
  | ok c =>
    rw [receive_of_ok hp, receive_of_ok hp]
    exact closeAndFinish_withDirection d e .done .none { s with conc := c }
  | invalid why =>
    rw [receive_of_invalid hp, receive_of_invalid hp]
    exact closeAndFinish_withDirection d e .failed .protocolError { s with protoerr := why }

/-! ### The device and the port (R244, R245) -/

theorem openDevice_withDirection (s : State) : openDevice (s.withDirection d e) = (openDevice s).withDirection d e := by
  cases h : (envOpen s).1 with
  | ok fd => rw [openDevice_of_ok h, openDevice_of_ok (s := s.withDirection d e) h]; rfl
  | fail =>
    rw [openDevice_of_fail h, openDevice_of_fail (s := s.withDirection d e) h]
    exact closeAndFinish_withDirection d e .failed .openError (s.asked _ _)

theorem editAndWrite_withDirection (fd : Nat) (code : SpeedCode) (direction : Direction)
    (dataBits parity stopBits : Byte) (s : State) :
    editAndWrite fd code direction dataBits parity stopBits (s.withDirection d e) =
      ((editAndWrite fd code direction dataBits parity stopBits s).1,
        (editAndWrite fd code direction dataBits parity stopBits s).2.withDirection d e) := by
  rcases hedit : editAttr layout code direction dataBits parity stopBits s.attr with ⟨out, _ | why⟩
  · rw [editAndWrite_of_done hedit, editAndWrite_of_done (s := s.withDirection d e) hedit]
    rfl
  · rw [editAndWrite_of_failed hedit, editAndWrite_of_failed (s := s.withDirection d e) hedit]
    rfl

theorem configure_withDirection (fd : Nat) (baud : Word) (dir dataBits parity stopBits : Byte) (s : State) :
    configure fd baud dir dataBits parity stopBits (s.withDirection d e) =
      ((configure fd baud dir dataBits parity stopBits s).1,
        (configure fd baud dir dataBits parity stopBits s).2.withDirection d e) := by
  by_cases hbaud : baud ∈ baudSet
  case neg => rw [configure_of_unsupported_rate hbaud, configure_of_unsupported_rate hbaud]
  by_cases hreq : dir = 0 ∧ dataBits = 0 ∧ parity = 0 ∧ stopBits = 0
  case pos => rw [configure_of_nothing_requested hbaud hreq, configure_of_nothing_requested hbaud hreq]
  cases hget : (envGetAttr fd s).1 with
  | fail =>
    rw [configure_of_unread hbaud hreq hget, configure_of_unread (s := s.withDirection d e) hbaud hreq hget]
    rfl
  | ok a =>
    rw [configure_of_read hbaud hreq hget, configure_of_read (s := s.withDirection d e) hbaud hreq hget]
    exact editAndWrite_withDirection d e fd _ _ dataBits parity stopBits { (envGetAttr fd s).2 with attr := a }

/-- CONFIGURE in a session takes the direction Both and not the register (R231). -/
theorem configurePort_withDirection (s : State) :
    configurePort (s.withDirection d e) = (configurePort s).withDirection d e := by
  have hsame : configureSession (s.withDirection d e) =
      ((configureSession s).1, (configureSession s).2.withDirection d e) :=
    configure_withDirection d e s.fd s.session.baud 3#8 s.session.dataBits s.session.parity s.session.stopBits s
  rw [configurePort, configurePort, hsame]
  rcases configureSession s with ⟨_ | _ | why, s'⟩
  · rfl
  · rfl
  · exact closeAndFinish_withDirection d e .failed .configError { s' with cfgerr := why.toCfgErr }

/-! ### The attempt (R247 to R252) -/

section Pass

variable {d e : Byte} {dir : Dir} {length : Nat} {timeout : Word} {s s' : State} {status : XferStatus}

theorem writeOnce_withDirection (hm : s.moved < length) (h : writeOnce length s = .next (status, s')) :
    writeOnce length (s.withDirection d e) = .next (status, s'.withDirection d e) := by
  obtain ⟨bytes, hread, -⟩ := thenDo_eq_next h
  obtain hfatal | ⟨k, hprogress⟩ := WriteAnswer.fatal_or_progress (envWrite bytes s).1
  · rw [writeOnce_of_fatal hread hfatal] at h
    rw [writeOnce_of_fatal (s := s.withDirection d e) hread hfatal]
    cases h
    rfl
  · rw [writeOnce_of_progress hm hread hprogress] at h
    rw [writeOnce_of_progress (s := s.withDirection d e) hm hread hprogress]
    cases h
    rfl

theorem readOnce_withDirection (h : readOnce length s = .next (status, s')) :
    readOnce length (s.withDirection d e) = .next (status, s'.withDirection d e) := by
  cases ha : (envRead (length - s.moved) s).1 with
  | fatal =>
    rw [readOnce_of_fatal ha] at h
    rw [readOnce_of_fatal (s := s.withDirection d e) ha]
    cases h
    rfl
  | again =>
    rw [readOnce_of_again ha] at h
    rw [readOnce_of_again (s := s.withDirection d e) ha]
    cases h
    rfl
  | moved bytes =>
    rw [readOnce_of_moved ha] at h
    obtain ⟨m, hwrite, hnext⟩ := thenDo_eq_next h
    have hwrite' : memWrite (s.withDirection d e).rxbuf (s.withDirection d e).moved bytes = .next m := hwrite
    rw [readOnce_of_moved (s := s.withDirection d e) ha, hwrite']
    cases hnext
    rfl

theorem transferOnce_withDirection (hm : s.moved < length) (h : transferOnce dir length s = .next (status, s')) :
    transferOnce dir length (s.withDirection d e) = .next (status, s'.withDirection d e) := by
  cases dir with
  | write => exact writeOnce_withDirection hm h
  | read => exact readOnce_withDirection h
  | other => cases h

theorem waitThenTransfer_withDirection (hm : s.moved < length)
    (h : waitThenTransfer dir length timeout s = .next (status, s')) :
    waitThenTransfer dir length timeout (s.withDirection d e) = .next (status, s'.withDirection d e) := by
  rw [waitThenTransfer] at h ⊢
  cases ha : (envPoll dir timeout s).1 <;> rw [envPoll_eq ha] at h <;>
    rw [envPoll_eq (s := s.withDirection d e) ha]
  case ready => exact transferOnce_withDirection (s := s.asked _ (.poll dir s.fd timeout .ready)) hm h
  case timedOut => cases h; rfl
  case fatal => cases h; rfl

theorem transferPass_withDirection (h : transferPass dir length timeout s = .next (status, s')) :
    transferPass dir length timeout (s.withDirection d e) = .next (status, s'.withDirection d e) := by
  by_cases hm : s.moved < length
  case neg =>
    have hall := Nat.not_lt.mp hm
    rw [transferPass_of_all_moved hall] at h
    cases h
    exact transferPass_of_all_moved (s := s.withDirection d e) hall
  by_cases ht : timeout = 0
  case pos =>
    subst ht
    rw [transferPass_of_no_timeout hm] at h
    rw [transferPass_of_no_timeout (s := s.withDirection d e) hm]
    exact transferOnce_withDirection hm h
  by_cases hd : dir = .other
  case pos =>
    subst hd
    rw [transferPass_other_of_timeout hm ht] at h
    cases h
    exact transferPass_other_of_timeout (s := s.withDirection d e) hm ht
  rw [transferPass_of_timeout hm ht hd] at h
  rw [transferPass_of_timeout (s := s.withDirection d e) hm ht hd]
  exact waitThenTransfer_withDirection hm h

end Pass

theorem beginTransfer_withDirection (s : State) :
    beginTransfer (s.withDirection d e) = (beginTransfer s).withDirection d e := by
  by_cases hp : s.progress = .moving
  · have hp' : (s.withDirection d e).progress = .moving := hp
    rw [beginTransfer, beginTransfer, if_pos hp, if_pos hp']
  · have hp' : (s.withDirection d e).progress ≠ .moving := hp
    rw [beginTransfer, beginTransfer, if_neg hp, if_neg hp']
    rfl

end Direction

section Step

variable {d e : Byte} {s t : State}

theorem attemptStep_withDirection {dir : Dir} {target : SessionState} {reason : Reason}
    (h : attemptStep dir target reason s = .next t) :
    attemptStep dir target reason (s.withDirection d e) = .next (t.withDirection d e) := by
  obtain ⟨⟨status, s'⟩, hpass, hnext⟩ := thenDo_eq_next h
  have hsame : transferPass dir pktLen (s.withDirection d e).session.timeoutS (beginTransfer (s.withDirection d e)) =
      .next (status, s'.withDirection d e) := by
    rw [beginTransfer_withDirection]
    exact transferPass_withDirection hpass
  rw [attemptStep, hsame]
  cases status <;> cases hnext
  · rfl
  · rfl
  · exact congrArg _ (shortfall_withDirection d e _ reason s')

theorem selectRequest_withDirection {cmd : Byte} (h : selectRequest cmd s = .next t) :
    selectRequest cmd (s.withDirection d e) = .next (t.withDirection d e) := by
  unfold selectRequest at h ⊢
  simp only [armRequest_eq] at h ⊢
  split_ifs at h ⊢ <;> cases h
  · rfl
  · rfl
  · rfl
  · exact congrArg _ (closeAndFinish_withDirection d e .failed .unsupportedCommand s)

/-- Every transition does the same with other values in `DIRECTION` (R231). -/
theorem sessionStep_withDirection {cmd : Byte} (h : sessionStep cmd s = .next t) :
    sessionStep cmd (s.withDirection d e) = .next (t.withDirection d e) := by
  have hstate : (s.withDirection d e).state = s.state := rfl
  have hprogress : (s.withDirection d e).progress = s.progress := rfl
  rw [sessionStep] at h
  rw [sessionStep, hstate, hprogress]
  cases hst : s.state <;> rw [hst] at h
  case idle => cases h; exact congrArg _ (openDevice_withDirection d e s)
  case portOpened => cases h; exact congrArg _ (configurePort_withDirection d e s)
  case portConfigured =>
    simp only at h ⊢
    split_ifs at h ⊢
    · exact selectRequest_withDirection h
    · exact attemptStep_withDirection (writeStep_eq_attemptStep s ▸ h)
  case requestSent =>
    simp only at h ⊢
    split_ifs at h ⊢
    · exact attemptStep_withDirection (readStep_eq_attemptStep s ▸ h)
    · cases h; exact congrArg _ (closeAndFinish_withDirection d e .done .none s)
  case responseReceived =>
    obtain ⟨p, hp, hreceive⟩ := thenDo_eq_next h
    have hp' : readPacket (s.withDirection d e).rxbuf = .next p := hp
    cases hreceive
    simp only [parseStep, hp', thenDo, receive_withDirection]
  case done => cases h; rfl
  case failed => cases h; rfl

/-- Settles O57: a step of a running session is a transition, and none of them reads `DIRECTION`. -/
theorem directionNeverRead : Obligations.DirectionNeverRead := by
  intro s t d e hr h
  rw [step_eq_sessionStep hr] at h
  exact (step_eq_sessionStep (s := s.withDirection d e) hr).trans (sessionStep_withDirection h)

end Step

end Sys2Proof.Machine
end

section
/-! The straight path of a session (45_sensor_session.md R240 to R242): each of its steps, the environment's answer waiting
and favourable, and the run they make. -/

namespace Sys2Proof.Machine

open Sys2Proof.Config

/-! ### A request whose answer is waiting (log 4) -/

section Waiting

variable {s : State}

theorem envOpen_of_waiting {a : OpenAnswer} {os : List OpenAnswer} (h : s.env.opens = a :: os) :
    envOpen s = (a, s.asked { s.env with opens := os } (.openDev s.session.dev a)) := by
  simp only [envOpen, h, drawFrom_cons]

theorem envGetAttr_of_waiting {a : GetAttrAnswer} {gs : List GetAttrAnswer} (h : s.env.getAttrs = a :: gs) (fd : Nat) :
    envGetAttr fd s = (a, s.asked { s.env with getAttrs := gs } (.getAttr fd a)) := by
  simp only [envGetAttr, h, drawFrom_cons]

theorem envSetAttr_of_waiting {a : Ack} {ss : List Ack} (h : s.env.setAttrs = a :: ss) (fd : Nat) (attr : DeviceAttr) :
    envSetAttr fd attr s = (a, s.asked { s.env with setAttrs := ss } (.setAttr fd attr a)) := by
  simp only [envSetAttr, h, drawFrom_cons]

theorem envWrite_of_waiting {k : Nat} {ws : List WriteAnswer} {bytes : List Byte} (h : s.env.writes = .moved k :: ws)
    (hk : k ≤ bytes.length) :
    envWrite bytes s = (.moved k, s.asked { s.env with writes := ws } (.xferWrite s.fd bytes (.moved k))) := by
  simp only [envWrite, h, drawFrom_cons, WriteAnswer.bounded, Nat.min_eq_left hk]

theorem envRead_of_waiting {n : Nat} {bytes : List Byte} {rs : List ReadAnswer} (h : s.env.reads = .moved bytes :: rs)
    (hn : bytes.length ≤ n) :
    envRead n s = (.moved bytes, s.asked { s.env with reads := rs } (.xferRead s.fd n (.moved bytes))) := by
  simp only [envRead, h, drawFrom_cons, ReadAnswer.bounded, List.take_of_length_le hn]

theorem envClose_of_waiting {a : Ack} {cs : List Ack} (h : s.env.closes = a :: cs) :
    envClose s = (a, s.asked { s.env with closes := cs } (.close s.fd a)) := by
  simp only [envClose, h, drawFrom_cons]

end Waiting

/-! ### The port (R182) -/

/-- Line settings that CONFIGURE supports (R120, R132 to R134), 0 where none is requested (R181). -/
structure ConfigRegs.Supported (c : ConfigRegs) : Prop where
  baud : c.baud ∈ baudSet
  dataBits : c.dataBits ∈ [0#8, 5#8, 6#8, 7#8, 8#8]
  parity : c.parity ∈ [0x00#8, 0x4E#8, 0x6E#8, 0x53#8, 0x73#8, 0x45#8, 0x65#8, 0x4F#8, 0x6F#8]
  stopBits : c.stopBits ∈ [0#8, 10#8, 20#8]

theorem stopBitsStep_succeeds {W : Nat} {L : FlagLayout W} {stopBits : Byte} (a : Attr W)
    (h : stopBits ∈ [0#8, 10#8, 20#8]) :
    ∃ a', encodeStep (applyStopBits L) stopBits (.unsupportedStopBits stopBits) a = (a', none) :=
  encodeStep_succeeds (fun ⟨h0, hnone⟩ => (List.mem_cons.mp h).elim h0 (applyStopBits_eq_none_iff.mp hnone)) _

theorem ConfigRegs.Supported.editAttr_succeeds {c : ConfigRegs} (h : c.Supported) {W : Nat} (L : FlagLayout W)
    (code : SpeedCode) (a : Attr W) :
    ∃ out, editAttr L code (Direction.ofCode 3#8) c.dataBits c.parity c.stopBits a = (out, none) := by
  obtain ⟨a4, hspeed⟩ := setSpeed_succeeds (dir := 3#8) code a (by decide)
  obtain ⟨a5, hsize⟩ := dataBitsStep_succeeds (L := L) a4 h.dataBits
  obtain ⟨a6, hparity⟩ := parityStep_succeeds (L := L) a5 h.parity
  obtain ⟨a7, hstop⟩ := stopBitsStep_succeeds (L := L) a6 h.stopBits
  exact ⟨rawMode L a7, by simp only [editAttr, hspeed, hsize, hparity, hstop, thenStep_done]⟩

theorem configureSession_of_supported {s : State} (h : s.session.Supported) {a : DeviceAttr} {gs : List GetAttrAnswer}
    {ss : List Ack} (hget : s.env.getAttrs = .ok a :: gs) (hset : s.env.setAttrs = .ok :: ss) :
    ∃ out, configureSession s =
      (.success, { s with attr := out, env := { s.env with getAttrs := gs, setAttrs := ss }
                          trace := .setAttr s.fd out .ok :: .getAttr s.fd (.ok a) :: s.trace }) := by
  obtain ⟨out, hedit⟩ := h.editAttr_succeeds layout (speedCode s.session.baud) a
  have hread := envGetAttr_of_waiting hget s.fd
  have hreq : ¬(3#8 = 0 ∧ s.session.dataBits = 0 ∧ s.session.parity = 0 ∧ s.session.stopBits = 0) := by simp
  refine ⟨out, ?_⟩
  rw [configureSession, configure_of_read h.baud hreq (congrArg Prod.fst hread), hread,
    editAndWrite_of_done (s := { s.asked _ _ with attr := a }) hedit, writeAttr,
    envSetAttr_of_waiting (s := { s.asked { s.env with getAttrs := gs } (.getAttr s.fd (.ok a)) with attr := out }) hset]
  rfl

/-! ### The steps of the path -/

section Steps

variable {s : State}

theorem step_starts {rest : List HostAction} (hr : s.running = false) (hbusy : s.busy = false)
    (hhost : s.host = .processCommand :: rest) (htries : s.cfg.tries ≠ 0) :
    step s = .next (started s.cfg.cmd { s with host := rest }) := by
  rw [step_of_host_call hr hhost, session_of_not_running (s := { s with host := rest }) hr,
    startSession_eq_started (s := { s with host := rest }) hbusy htries]

theorem step_opens {fd : Nat} {os : List OpenAnswer} (hr : s.running = true) (hst : s.state = .idle)
    (hopens : s.env.opens = .ok fd :: os) :
    step s = .next
      { s with fd := fd, fdOpen := true, opens := 1, state := .portOpened, progress := .ready
               env := { s.env with opens := os }, trace := .openDev s.session.dev (.ok fd) :: s.trace } := by
  have hopen := envOpen_of_waiting hopens
  rw [step_eq_sessionStep hr, sessionStep_of_idle hst, openDevice_of_ok (congrArg Prod.fst hopen), hopen]
  rfl

theorem step_configures {a : DeviceAttr} {gs : List GetAttrAnswer} {ss : List Ack} (hr : s.running = true)
    (hst : s.state = .portOpened) (hsupported : s.session.Supported) (hget : s.env.getAttrs = .ok a :: gs)
    (hset : s.env.setAttrs = .ok :: ss) :
    ∃ out, step s = .next
      { s with attr := out, state := .portConfigured, progress := .ready
               env := { s.env with getAttrs := gs, setAttrs := ss }
               trace := .setAttr s.fd out .ok :: .getAttr s.fd (.ok a) :: s.trace } := by
  obtain ⟨out, hconf⟩ := configureSession_of_supported hsupported hget hset
  refine ⟨out, ?_⟩
  rw [step_eq_sessionStep hr, sessionStep_of_portOpened hst, configurePort_of_success hconf]

theorem step_arms {p : Packet} (hr : s.running = true) (hst : s.state = .portConfigured) (hp : s.progress = .ready)
    (hreq : requestPacket s.session = some p) :
    step s = .next { s with txbuf := Memory.store s.txbuf 0 p.toList, remain := s.session.tries
                            progress := .looping } := by
  rw [step_eq_sessionStep hr, sessionStep_of_first_entry hst hp, selectRequest_eq, hreq]
  exact armRequest_eq p s

/-- In the loop of `PortConfigured` every command makes the same step (R248). -/
theorem step_eq_exec_of_portConfigured {i : Instr} {c : Byte} (hi : commandCode i = some c) (hr : s.running = true)
    (hst : s.state = .portConfigured) (hp : s.progress ≠ .ready) : step s = exec i s := by
  rw [exec_of_portConfigured hi hr hst hp, step_eq_sessionStep hr, sessionStep, hst]
  exact (if_neg hp).trans (writeStep_eq_attemptStep s)

theorem step_sends {p : Packet} {ws : List WriteAnswer} (hr : s.running = true) (hst : s.state = .portConfigured)
    (hp : s.progress = .looping) (hholds : Memory.holds s.txbuf p) (htimeout : s.session.timeoutS = 0)
    (hwrites : s.env.writes = .moved 9 :: ws) :
    step s = .next
      { s with moved := 9, state := .requestSent, progress := .ready, env := { s.env with writes := ws }
               trace := .xferWrite s.fd p.toList (.moved 9) :: s.trace } := by
  have hwrite := envWrite_of_waiting (bytes := p.toList) hwrites le_rfl
  rw [step_eq_exec_of_portConfigured (i := .readGas) rfl hr hst (by simp [hp]),
    commandWritePass .readGas 0 s s p (.moved 9) 9 0 rfl hr hst (.inl ⟨hp, rfl⟩) (by decide) hholds
      (.inl ⟨htimeout, rfl⟩) (congrArg Prod.fst hwrite) (.inl rfl), List.drop_zero, hwrite]
  rfl

theorem step_takes {p : Packet} {rs : List ReadAnswer} (hr : s.running = true) (hst : s.state = .requestSent)
    (hp : s.progress = .ready) (hcmd : s.session.cmd = 0) (htimeout : s.session.timeoutS = 0)
    (hreads : s.env.reads = .moved p.toList :: rs) :
    ∃ rx : Memory, Memory.holds rx p ∧ step s = .next
      { s with moved := 9, rxbuf := rx, state := .responseReceived, progress := .ready
               env := { s.env with reads := rs }, trace := .xferRead s.fd 9 (.moved p.toList) :: s.trace } := by
  have hread := envRead_of_waiting (n := 9) hreads le_rfl
  have hdecode : decode [s.session.cmd] = .ok .readGas := by rw [hcmd]; rfl
  obtain ⟨rx, hexec, -, hstored, -⟩ :=
    readGasReadPass s s (.moved p.toList) p.toList 0 hr hst (.inl ⟨hp, rfl⟩) (by decide) (.inl ⟨htimeout, rfl⟩)
      (congrArg Prod.fst hread) (.inl rfl)
  refine ⟨rx, fun off hoff => ?_, ?_⟩
  · have hbyte := hstored off hoff
    rwa [Nat.zero_add] at hbyte
  · rw [step_eq_exec_of_sampled hr hdecode, hexec, hread]
    rfl

theorem succeed_of_waiting {cs : List Ack} (hopen : s.fdOpen = true) (hcloses : s.env.closes = .ok :: cs) :
    succeed s =
      { s with
        state := .done, reason := .none, fdOpen := false, closes := s.closes + 1, running := false, progress := .ready
        env := { s.env with closes := cs }, trace := .close s.fd .ok :: s.trace } := by
  rw [succeed_of_open hopen, envClose_of_waiting hcloses]
  rfl

theorem step_judges {p : Packet} {c : Half} {cs : List Ack} (hr : s.running = true) (hst : s.state = .responseReceived)
    (hopen : s.fdOpen = true) (hholds : Memory.holds s.rxbuf p) (hok : parseGas p = .ok c)
    (hcloses : s.env.closes = .ok :: cs) :
    step s = .next
      { s with
        conc := c
        state := .done, reason := .none, fdOpen := false, closes := s.closes + 1, running := false, progress := .ready
        env := { s.env with closes := cs }, trace := .close s.fd .ok :: s.trace } := by
  rw [step_of_responseReceived hr hst (readPacket_eq_next hholds), receive_of_ok hok,
    succeed_of_waiting (s := { s with conc := c }) hopen hcloses]

theorem step_ends_calibration {cs : List Ack} (hr : s.running = true) (hst : s.state = .requestSent)
    (hcmd : s.session.cmd ≠ 0) (hopen : s.fdOpen = true) (hcloses : s.env.closes = .ok :: cs) :
    step s = .next
      { s with
        state := .done, reason := .none, fdOpen := false, closes := s.closes + 1, running := false, progress := .ready
        env := { s.env with closes := cs }, trace := .close s.fd .ok :: s.trace } := by
  rw [step_eq_sessionStep hr, sessionStep_of_calibration_sent hst hcmd, succeed_of_waiting hopen hcloses]

end Steps

/-- A run that takes a step of the unit. -/
theorem run_succ_of_step {n : Nat} {s t : State} (h : step s = .next t) :
    Host.Core.run core (n + 1) s = Host.Core.run core n t := run_of_step_next core n h

/-! ### The path to `RequestSent` -/

/-- The host has called, its settings are supported, the command selects the packet `p`, and the answers that let the request
out are waiting. -/
structure FavourableStart (s : State) (rest : List HostAction) (p : Packet) : Prop where
  resting : s.running = false
  notBusy : s.busy = false
  called : s.host = .processCommand :: rest
  tries : s.cfg.tries ≠ 0
  timeout : s.cfg.timeoutS = 0
  settings : s.cfg.Supported
  request : requestPacket s.cfg = some p
  opens : ∃ fd os, s.env.opens = .ok fd :: os
  getAttrs : ∃ a gs, s.env.getAttrs = .ok a :: gs
  setAttrs : ∃ ss, s.env.setAttrs = .ok :: ss
  writes : ∃ ws, s.env.writes = .moved 9 :: ws

/-- Five steps from `s` the unit is at `t`, in `RequestSent` with the whole packet `p` handed out. -/
structure RequestGone (s : State) (rest : List HostAction) (p : Packet) (t : State) : Prop where
  run : ∀ n, Host.Core.run core (n + 5) s = Host.Core.run core n t
  running : t.running = true
  state : t.state = .requestSent
  progress : t.progress = .ready
  cfg : t.cfg = s.cfg
  session : t.session = s.cfg
  host : t.host = rest
  conc : t.conc = s.conc
  rxbuf : t.rxbuf = s.rxbuf
  remain : t.remain = s.cfg.tries
  fdOpen : t.fdOpen = true
  opens : t.opens = 1
  closes : t.closes = 0
  readsWaiting : t.env.reads = s.env.reads
  closesWaiting : t.env.closes = s.env.closes
  outbound : t.outbound = p.toList
  inbound : t.inbound = []

theorem FavourableStart.requestGone {s : State} {rest : List HostAction} {p : Packet} (h : FavourableStart s rest p) :
    ∃ t, RequestGone s rest p t := by
  obtain ⟨fd, os, hopens⟩ := h.opens
  obtain ⟨a, gs, hget⟩ := h.getAttrs
  obtain ⟨ss, hset⟩ := h.setAttrs
  obtain ⟨ws, hwrites⟩ := h.writes
  have hstart := step_starts h.resting h.notBusy h.called h.tries
  have hopen := step_opens (s := started s.cfg.cmd { s with host := rest }) rfl rfl hopens
  obtain ⟨out, hconfigure⟩ := step_configures (s := { started s.cfg.cmd { s with host := rest } with
    fd := fd, fdOpen := true, opens := 1, state := .portOpened, progress := .ready
    env := { s.env with opens := os }, trace := [.openDev s.cfg.dev (.ok fd)] }) rfl rfl h.settings hget hset
  have harm := step_arms (s := { started s.cfg.cmd { s with host := rest } with
    fd := fd, fdOpen := true, opens := 1, attr := out, state := .portConfigured, progress := .ready
    env := { s.env with opens := os, getAttrs := gs, setAttrs := ss }
    trace := [.setAttr fd out .ok, .getAttr fd (.ok a), .openDev s.cfg.dev (.ok fd)] }) rfl rfl rfl h.request
  have hsend := step_sends (s := { started s.cfg.cmd { s with host := rest } with
    fd := fd, fdOpen := true, opens := 1, attr := out, state := .portConfigured, progress := .looping
    txbuf := Memory.store s.txbuf 0 p.toList, remain := s.cfg.tries
    env := { s.env with opens := os, getAttrs := gs, setAttrs := ss }
    trace := [.setAttr fd out .ok, .getAttr fd (.ok a), .openDev s.cfg.dev (.ok fd)] }) rfl rfl rfl
    (fun off hoff => read?_store_packet s.txbuf p hoff) h.timeout hwrites
  refine ⟨_, {
    run := fun n =>
      calc Host.Core.run core (n + 5) s = _ := run_succ_of_step hstart
        _ = _ := run_succ_of_step hopen
        _ = _ := run_succ_of_step hconfigure
        _ = _ := run_succ_of_step harm
        _ = _ := run_succ_of_step hsend
    running := rfl, state := rfl, progress := rfl, cfg := rfl, session := rfl, host := rfl, conc := rfl, rxbuf := rfl
    remain := rfl, fdOpen := rfl, opens := rfl, closes := rfl, readsWaiting := rfl, closesWaiting := rfl
    outbound := rfl, inbound := rfl }⟩

/-! ### The statements -/

/-- Settles O58: the request goes out in five steps, then the response is taken and judged. -/
theorem readGasSessionSucceeds : Obligations.ReadGasSessionSucceeds := by
  intro s rest fd a p c os gs ss ws rs cs hr hst hhost hcmd htries htimeout hbaud hdata hparity hstop hok hopens hget
    hset hwrites hreads hcloses
  obtain ⟨t, h⟩ := FavourableStart.requestGone (s := s) (rest := rest) (p := buildReadGas)
    { resting := hr, notBusy := State.busy_eq_false_iff.mpr hst, called := hhost, tries := htries, timeout := htimeout
      settings := ⟨hbaud, hdata, hparity, hstop⟩, request := if_pos hcmd
      opens := ⟨fd, os, hopens⟩, getAttrs := ⟨a, gs, hget⟩, setAttrs := ⟨ss, hset⟩, writes := ⟨ws, hwrites⟩ }
  obtain ⟨rx, hholds, htake⟩ := step_takes h.running h.state h.progress (h.session ▸ hcmd) (h.session ▸ htimeout)
    (h.readsWaiting.trans hreads)
  have hjudge := step_judges
    (s := { t with moved := 9, rxbuf := rx, state := .responseReceived, progress := .ready
                   env := { t.env with reads := rs }, trace := .xferRead t.fd 9 (.moved p.toList) :: t.trace })
    h.running rfl h.fdOpen hholds hok (h.closesWaiting.trans hcloses)
  refine ⟨_, (h.run 2).trans ((run_succ_of_step htake).trans (run_succ_of_step hjudge)), rfl, rfl, rfl, rfl,
    h.opens, congrArg (· + 1) h.closes, rfl, h.remain, h.cfg, h.host, ?handedOut, ?taken⟩
  case handedOut =>
    have hout : t.outbound = [0xFF, 0x01, 0x86, 0, 0, 0, 0, 0, 0x79] := h.outbound.trans (by rw [buildReadGas_eq]; rfl)
    simpa [State.outbound, Event.outbound] using hout
  case taken =>
    have hin : t.trace.reverse.flatMap Event.inbound = [] := h.inbound
    simp [State.inbound, Event.inbound, hin]

theorem requestPacket_of_calibration {c : ConfigRegs} {q : Packet}
    (h : c.cmd = 1 ∧ q = buildCalZero ∨ c.cmd = 2 ∧ q = buildCalSpan c.span) :
    c.cmd ≠ 0 ∧ requestPacket c = some q := by
  obtain ⟨hcmd, rfl⟩ | ⟨hcmd, rfl⟩ := h <;> simp [requestPacket, hcmd]

/-- Settles O59: the request goes out in five steps, then the session ends. -/
theorem calibrationSessionSucceeds : Obligations.CalibrationSessionSucceeds := by
  intro s rest fd a q os gs ss ws cs hr hst hhost hcmd htries htimeout hbaud hdata hparity hstop hopens hget hset
    hwrites hcloses
  obtain ⟨hnotRead, hreq⟩ := requestPacket_of_calibration hcmd
  obtain ⟨t, h⟩ := FavourableStart.requestGone (s := s) (rest := rest) (p := q)
    { resting := hr, notBusy := State.busy_eq_false_iff.mpr hst, called := hhost, tries := htries, timeout := htimeout
      settings := ⟨hbaud, hdata, hparity, hstop⟩, request := hreq
      opens := ⟨fd, os, hopens⟩, getAttrs := ⟨a, gs, hget⟩, setAttrs := ⟨ss, hset⟩, writes := ⟨ws, hwrites⟩ }
  have hend := step_ends_calibration h.running h.state (h.session ▸ hnotRead) h.fdOpen (h.closesWaiting.trans hcloses)
  refine ⟨_, (h.run 1).trans (run_succ_of_step hend), rfl, rfl, rfl, h.opens, congrArg (· + 1) h.closes, rfl, h.conc,
    h.rxbuf, h.cfg, ?handedOut, ?taken⟩
  case handedOut => simpa [State.outbound, Event.outbound] using h.outbound
  case taken => simpa [State.inbound, Event.inbound] using h.inbound

end Sys2Proof.Machine
end

section
/-! What a resting unit holds between sessions (45_sensor_session.md R257, R302; decision D21). -/

namespace Sys2Proof.Machine

open Sys2Proof.Config

/-- Settles O56, along what a resting unit's step can be: with no host action waiting nothing changes, a host write reaches
the configuration registers alone, and a start samples them with the `CMD` they hold. -/
theorem terminalStatesHeld : Obligations.TerminalStatesHeld := by
  intro s t hr h
  obtain ⟨-, rfl⟩ | ⟨a, rest, -, -, -, rfl⟩ | ⟨rest, hhost, -, -, rfl⟩ := step_of_resting hr h
  case inl => exact .inl ⟨hr, rfl, rfl, rfl, rfl, rfl, rfl, rfl⟩
  case inr.inl => exact .inl ⟨hr, rfl, rfl, rfl, rfl, rfl, rfl, rfl⟩
  case inr.inr =>
    exact .inr ⟨started_running _ _, started_state _ _, started_reason _ _, started_cfgerr _ _, started_protoerr _ _,
      started_ioerr _ _, started_conc _ _, rest, hhost, started_session _ _⟩

end Sys2Proof.Machine
end

section
/-! What the unit does while no session runs (10_state.md R45, 45_sensor_session.md R230, R233, 70_reset_and_hazards.md R320):
nothing, a register write of the host, or a start that may be refused. -/

namespace Sys2Proof.Machine

/-! ### The host's turn -/

/-- Without a host action the unit does nothing (R320). -/
theorem step_of_no_host_action {s : State} (hr : s.running = false) (hhost : s.host = []) : step s = .next s := by
  rw [step, if_neg (by simp [hr]), hostTurn, hhost]

theorem step_of_host_write {s : State} {a : HostAction} {rest : List HostAction} (hr : s.running = false)
    (hhost : s.host = a :: rest) (ha : a ≠ .processCommand) : step s = hostWrite a { s with host := rest } := by
  rw [step, if_neg (by simp [hr]), hostTurn, hhost]
  exact if_neg ha

/-- A unit that is not BUSY takes the write (R45). -/
theorem hostWrite_of_not_busy {s : State} (hbusy : s.busy = false) (a : HostAction) :
    hostWrite a s = .next { s with cfg := a.write s.cfg } := by
  rw [hostWrite, if_neg (by simp [hbusy])]

/-- Settles O45: outside BUSY each write is taken, and `HostAction.write` sets the register it names. -/
theorem hostWritesOneRegister : Obligations.HostWritesOneRegister := by
  intro s rest v8 v16 v32 d hr hstate
  have hbusy : s.busy = false := State.busy_eq_false_iff.mpr hstate
  have hwrite : ∀ a : HostAction, a ≠ .processCommand → s.host = a :: rest →
      step s = .next { s with host := rest, cfg := a.write s.cfg } := fun a ha hhost =>
    (step_of_host_write hr hhost ha).trans (hostWrite_of_not_busy (s := { s with host := rest }) hbusy a)
  exact ⟨hwrite (.writeDev d) nofun, hwrite (.writeBaud v32) nofun, hwrite (.writeDataBits v8) nofun,
    hwrite (.writeParity v8) nofun, hwrite (.writeStopBits v8) nofun, hwrite (.writeDirection v8) nofun,
    hwrite (.writeCmd v8) nofun, hwrite (.writeSpan v16) nofun, hwrite (.writeTries v32) nofun,
    hwrite (.writeTimeoutS v32) nofun⟩

/-! ### The reset state -/

/-- Settles O46: the reset state has no host action waiting, and without one no unit at rest moves. -/
theorem resetRests : Obligations.ResetRests :=
  ⟨rfl, rfl, rfl, rfl, rfl, rfl, rfl, rfl, rfl, rfl, step_of_no_host_action rfl rfl, fun _ => step_of_no_host_action⟩

/-! ### The two refusals of a start -/

/-- The states of R32 in which the unit is BUSY. -/
theorem State.busy_eq_true_iff {s : State} :
    s.busy = true ↔ s.state = .portOpened ∨ s.state = .portConfigured ∨ s.state = .requestSent
      ∨ s.state = .responseReceived := by
  unfold State.busy
  cases s.state <;> simp

theorem startSession_of_busy {s : State} (hbusy : s.busy = true) (cmd : Byte) :
    startSession cmd s = .refused .hostActionWhileBusy := by
  rw [startSession, if_pos hbusy]

theorem startSession_of_no_tries {s : State} (hbusy : s.busy = false) (htries : s.cfg.tries = 0) (cmd : Byte) :
    startSession cmd s = .refused .triesZero := by
  rw [startSession, if_neg (by simp [hbusy]), if_pos htries]

/-- Settles O32: outside a session a command is `startSession` with its code, whose two guards are the refusals. -/
theorem startRefused : Obligations.StartRefused := by
  intro i c s hcode hr
  rw [exec_of_commandCode hcode, session_of_not_running hr]
  exact ⟨fun hrest htries => startSession_of_no_tries (State.busy_eq_false_iff.mpr hrest) htries c,
    fun hbusy => startSession_of_busy (State.busy_eq_true_iff.mpr hbusy) c⟩

end Sys2Proof.Machine
end

section
/-! The invariant of the machine as a whole: it holds at reset, every step keeps it, and under it no step faults
(10_state.md R34, R44, 20_memory.md R66, 45_sensor_session.md R236, R258). -/

namespace Sys2Proof.Machine

/-- Settles O49: `State.Inv.step`, a resting unit's step or one of the transitions of a session. -/
theorem stepKeepsInvariant : Obligations.StepKeepsInvariant := fun _ _ hinv => hinv.step

/-- Settles O48: the unit after reset is at rest, has opened nothing and has made no request. -/
theorem resetMeetsInvariant : Obligations.ResetMeetsInvariant := by
  refine ⟨?inv, ⟨rfl, rfl⟩, ⟨fun _ => rfl, fun _ _ => rfl, fun _ => rfl⟩⟩
  case inv =>
    have hbuf : State.reset.BuffersOk := by simp [State.reset, Memory.wf]
    exact .of_resting rfl rfl rfl (Nat.zero_le 1) rfl (Nat.zero_le pktLen) rfl hbuf

theorem isFault_startSession (cmd : Byte) (s : State) : isFault (startSession cmd s) = false := by
  unfold startSession
  split_ifs <;> rfl

theorem isFault_hostWrite (a : HostAction) (s : State) : isFault (hostWrite a s) = false := by
  unfold hostWrite
  split_ifs <;> rfl

/-- The host's turn reads no buffer, so it cannot fault (R34, R66). -/
theorem isFault_step_of_resting {s : State} (hr : s.running = false) : isFault (step s) = false := by
  cases hhost : s.host with
  | nil => rw [step_of_no_host_action hr hhost]; rfl
  | cons a rest =>
    by_cases ha : a = .processCommand
    · rw [step_of_host_call hr (ha ▸ hhost), session_of_not_running (s := { s with host := rest }) hr]
      exact isFault_startSession _ _
    · rw [step_of_host_write hr hhost ha]
      exact isFault_hostWrite _ _

/-- Settles O50: a running session goes on by one of its transitions, and the host's turn reads no buffer. -/
theorem sessionNeverStops : Obligations.SessionNeverStops := by
  intro s hinv
  cases hr : s.running with
  | true =>
    obtain ⟨t, hstep, -⟩ := transition_of_running hinv hr
    exact ⟨by rw [hstep]; rfl, fun _ => ⟨t, hstep⟩⟩
  | false => exact ⟨isFault_step_of_resting hr, nofun⟩

end Sys2Proof.Machine
end

section
/-! The parity letters (41_line_encoding.md R133): the pattern of each, in either case. -/

namespace Sys2Proof.Machine

open Sys2Proof.Config

/-- What `upper` maps to a capital letter: the letter itself and its small form (R133). -/
theorem upper_eq_capital_iff {c letter : Byte} (hA : 0x41#8 ≤ letter) (hZ : letter ≤ 0x5A#8) :
    upper c = letter ↔ c = letter ∨ c = letter + 0x20#8 := by
  unfold upper
  split_ifs <;> bv_omega

section Pattern

variable {W : Nat} {L : FlagLayout W} {c : Byte} {p : BitVec W}

/-- The parity patterns by the letters as the host may write them, in either case. -/
theorem parityPattern_eq_ite :
    parityPattern L c =
      if c ∈ [0x4E#8, 0x6E#8, 0x53#8, 0x73#8] then some 0
      else if c ∈ [0x45#8, 0x65#8] then some L.parEnable
      else if c ∈ [0x4F#8, 0x6F#8] then some (L.parEnable ||| L.parOdd)
      else none := by
  simp only [parityPattern, upper_eq_capital_iff, BitVec.reduceLE, BitVec.reduceAdd, List.mem_cons, List.not_mem_nil,
    or_false, or_assoc]

theorem parityPattern_of_letter
    (h : c ∈ [0x4E#8, 0x6E#8, 0x53#8, 0x73#8] ∧ p = 0 ∨ c ∈ [0x45#8, 0x65#8] ∧ p = L.parEnable
      ∨ c ∈ [0x4F#8, 0x6F#8] ∧ p = L.parEnable ||| L.parOdd) : parityPattern L c = some p := by
  rw [parityPattern_eq_ite]
  obtain ⟨hc, rfl⟩ | ⟨hc, rfl⟩ | ⟨hc, rfl⟩ := h
  · exact if_pos hc
  · rw [if_neg (by revert c; decide), if_pos hc]
  · rw [if_neg (by revert c; decide), if_neg (by revert c; decide), if_pos hc]

theorem parityPattern_eq_none (h : c ∉ [0x4E#8, 0x6E#8, 0x53#8, 0x73#8, 0x45#8, 0x65#8, 0x4F#8, 0x6F#8]) :
    parityPattern L c = none := by
  simp only [List.mem_cons, List.not_mem_nil, or_false, not_or] at h
  simp [parityPattern_eq_ite, h]

end Pattern

/-- Settles O7: each letter has a pattern inside the two parity bits, and the transform replaces the two by it. -/
theorem parityReplacesParityBits : Obligations.ParityReplacesParityBits := by
  intro W L _ c flags
  refine ⟨fun p hletter => ?_, fun hother => ?_⟩
  · have hp : parityPattern L c = some p := parityPattern_of_letter hletter
    have hout : applyParity L c flags = some (replaceField (L.parEnable ||| L.parOdd) p flags) := by
      rw [applyParity, hp]; rfl
    obtain ⟨hframe, hfield⟩ := replaceField_spec flags (parityPattern_inside hp)
    exact ⟨_, hout, rfl, hframe, hfield⟩
  · rw [applyParity, parityPattern_eq_none hother]
    rfl

end Sys2Proof.Machine
end

section
/-! The platform's constants behind their guards (40_baud_table.md R120, 41_line_encoding.md R130, decision D12). -/

namespace Sys2Proof.Machine

open Sys2Proof.Config

/-- Either the platform's codes are injective on the table, or the rate's own number stands in (log 13). -/
theorem speedCode_injOn {a b : Word} (ha : a ∈ baudSet) (hb : b ∈ baudSet) (h : speedCode a = speedCode b) : a = b := by
  unfold speedCode at h
  split_ifs at h with hnodup
  · exact List.inj_on_of_nodup_map hnodup ha hb h
  · exact BitVec.eq_of_toNat_eq h

/-- Either the platform's layout is admissible, or the plain one stands in (log 11). -/
theorem layout_ok : FlagLayout.Ok layout := by
  unfold layout
  split_ifs with hok
  · exact hok
  · exact plainLayout_ok (Nat.le_add_left 5 _)

/-- Settles O5: each constant is used only where it passes its guard. -/
theorem platformConstantsAdmissible : Obligations.PlatformConstantsAdmissible :=
  ⟨fun _ ha _ hb => speedCode_injOn ha hb, layout_ok⟩

end Sys2Proof.Machine
end

section
/-! What a running session leaves to the host (10_state.md R20, R45, 70_reset_and_hazards.md R326): its pending actions, the
configuration registers and their samples. -/

namespace Sys2Proof.Machine

open Sys2Proof.Config

/-- From `s` to `t` the host's pending actions, the configuration registers and the samples are as they were. -/
structure HostKept (s t : State) : Prop where
  host : t.host = s.host
  cfg : t.cfg = s.cfg
  session : t.session = s.session

theorem HostKept.refl (s : State) : HostKept s s := ⟨rfl, rfl, rfl⟩

theorem HostKept.trans {s t u : State} (h : HostKept s t) (h' : HostKept t u) : HostKept s u :=
  ⟨h'.host.trans h.host, h'.cfg.trans h.cfg, h'.session.trans h.session⟩

theorem XferFrame.hostKept {s s' : State} (h : XferFrame s s') : HostKept s s' := by
  obtain ⟨_, _, _, _, rfl⟩ := h
  exact ⟨rfl, rfl, rfl⟩

theorem beginTransfer_hostKept (s : State) : HostKept s (beginTransfer s) := by
  obtain ⟨m, hbegin, -⟩ := beginTransfer_cases s
  rw [hbegin]
  exact ⟨rfl, rfl, rfl⟩

/-! ### The transitions -/

/-- The end of a session is not the host's business, whatever led to it (R255). -/
theorem HostKept.closeAndFinish {s s' : State} (h : HostKept s s') (target : SessionState) (why : Reason) :
    HostKept s (closeAndFinish target why s') := by
  obtain ⟨hhost, hcfg, hsession, -⟩ := closeAndFinish_frame target why s'
  exact h.trans ⟨hhost, hcfg, hsession⟩

theorem HostKept.takeFailure {s s' : State} {why : Reason} (h : HostKept s s') : HostKept s (takeFailure why s') :=
  h.closeAndFinish .failed why

theorem HostKept.succeed {s s' : State} (h : HostKept s s') : HostKept s (succeed s') := h.closeAndFinish .done .none

theorem openDevice_hostKept (s : State) : HostKept s (openDevice s) := by
  cases h : (envOpen s).1 with
  | ok fd => rw [openDevice_of_ok h]; exact ⟨rfl, rfl, rfl⟩
  | fail =>
    rw [openDevice_of_fail h]
    exact .takeFailure ⟨rfl, rfl, rfl⟩

theorem configureSession_hostKept (s : State) : HostKept s (configureSession s).2 := by
  obtain ⟨attr, env, evs, -, -, hframe⟩ :=
    configure_frame s.fd s.session.baud 3#8 s.session.dataBits s.session.parity s.session.stopBits s
  rw [configureSession, hframe]
  exact ⟨rfl, rfl, rfl⟩

theorem configurePort_hostKept (s : State) : HostKept s (configurePort s) := by
  have hconf := configureSession_hostKept s
  have hnoOp := configureSession_ne_noOp s
  rcases h : configureSession s with ⟨r, s'⟩
  rw [h] at hconf hnoOp
  cases r with
  | success => rw [configurePort_of_success h]; exact hconf.trans ⟨rfl, rfl, rfl⟩
  | noOp => exact absurd rfl hnoOp
  | failed why =>
    rw [configurePort_of_failed h]
    exact .takeFailure (hconf.trans ⟨rfl, rfl, rfl⟩)

theorem selectRequest_hostKept {cmd : Byte} {s t : State} (h : selectRequest cmd s = .next t) : HostKept s t := by
  have harm : ∀ {p}, armRequest p s = .next t → HostKept s t := fun h => by
    cases (armRequest_eq _ s).symm.trans h
    exact ⟨rfl, rfl, rfl⟩
  unfold selectRequest at h
  split_ifs at h
  · exact harm h
  · exact harm h
  · exact harm h
  · cases h
    exact (HostKept.refl s).takeFailure

theorem shortfall_hostKept (why : IoErr) (reason : Reason) (s : State) : HostKept s (shortfall why reason s) := by
  unfold shortfall
  split_ifs
  · exact .takeFailure ⟨rfl, rfl, rfl⟩
  · exact ⟨rfl, rfl, rfl⟩

theorem attemptStep_hostKept {dir : Dir} {target : SessionState} {reason : Reason} {s t : State}
    (h : attemptStep dir target reason s = .next t) : HostKept s t := by
  obtain ⟨⟨status, s'⟩, hpass, hnext⟩ := thenDo_eq_next h
  have hkept : HostKept s s' :=
    (beginTransfer_hostKept s).trans (transferPass_xferFrame le_rfl hpass).hostKept
  cases status <;> cases hnext
  · exact hkept.trans ⟨rfl, rfl, rfl⟩
  · exact hkept
  · exact hkept.trans (shortfall_hostKept _ _ s')

theorem receive_hostKept (p : Packet) (s : State) : HostKept s (receive p s) := by
  cases h : parseGas p with
  | ok c => rw [receive_of_ok h]; exact .succeed ⟨rfl, rfl, rfl⟩
  | invalid why => rw [receive_of_invalid h]; exact .takeFailure ⟨rfl, rfl, rfl⟩

theorem sessionStep_hostKept {cmd : Byte} {s t : State} (h : sessionStep cmd s = .next t) : HostKept s t := by
  rw [sessionStep] at h
  cases hst : s.state <;> rw [hst] at h
  case idle => cases h; exact openDevice_hostKept s
  case portOpened => cases h; exact configurePort_hostKept s
  case portConfigured =>
    simp only at h
    split_ifs at h
    · exact selectRequest_hostKept h
    · exact attemptStep_hostKept (writeStep_eq_attemptStep s ▸ h)
  case requestSent =>
    simp only at h
    split_ifs at h
    · exact attemptStep_hostKept (readStep_eq_attemptStep s ▸ h)
    · cases h
      exact (HostKept.refl s).succeed
  case responseReceived =>
    obtain ⟨p, -, hreceive⟩ := thenDo_eq_next h
    cases hreceive
    exact receive_hostKept p s
  case done => cases h; exact ⟨rfl, rfl, rfl⟩
  case failed => cases h; exact ⟨rfl, rfl, rfl⟩

/-- Settles O53: a step of a running session is a transition, and none of them takes a host action or writes a register of
the host's or a sample. -/
theorem hostHasNoMoveWhileRunning : Obligations.HostHasNoMoveWhileRunning := by
  intro s t hr h
  obtain ⟨hhost, hcfg, hsession⟩ := sessionStep_hostKept (step_eq_sessionStep hr ▸ h)
  exact ⟨hhost, hcfg, hsession⟩

end Sys2Proof.Machine
end
